-- ==== Sys2Proof/Config.lean ====
section
/-! DEFINITION. Config: the structural parameters of spec/00_scope.md R6 and R7 (widths and edge counts). The tables P10
and P8, the rotation amounts and the half mask are in Machine/Tables.lean. No free value is needed: the only open
content, `unspec`, is held as *no value* (R14). `PHYS_TIMING` is OPEN in the spec and no rule depends on it (R7, R166). -/

namespace Sys2Proof.Config

/-- `W_KEY`: the master key is 10 bits (R6). -/
abbrev wKey : Nat := 10

/-- `W_SUB`: a subkey is 8 bits (R6). -/
abbrev wSub : Nat := 8

/-- `W_HALF`: a half is 5 bits (R6). -/
abbrev wHalf : Nat := 5

/-- `LATENCY`: 2 edges from sampling to result, the sampling edge counted (R7, R127). -/
abbrev latency : Nat := 2

/-- The widest source a 4-bit table entry can address (R56: `1 <= W_s <= 15`). -/
abbrev maxSource : Nat := 15

end Sys2Proof.Config
end

