-- ==== Sys2Proof/Word.lean ====
section
/-! DEFINITION. Word: the bit-vector types of the block (spec/00_scope.md R8: every value is a `Bits_N` of a stated width).
Bit 0 is the least significant bit (R9). -/

namespace Sys2Proof

/-- `Bits_1`: a valid bit or a one-bit input. -/
abbrev Bit := BitVec 1

/-- `Bits_5`: one half. -/
abbrev Half := BitVec 5

/-- `Bits_8`: a subkey. -/
abbrev Subkey := BitVec 8

/-- `Bits_10`: a master key, P, C1 or C2. -/
abbrev Word10 := BitVec 10

/-- `EIW12`: the word sampled at one clock edge (R51). -/
abbrev EdgeWord := BitVec 12

/-- `OUT47`: the output ports read as one word (R59). -/
abbrev ResultWord := BitVec 47

/-- A permutation table: the source positions in order, each 1-based from the most significant bit (R10, R55). -/
abbrev Table := List Nat

end Sys2Proof
end

