-- ==== Sys2Proof/Machine/Bits.lean ====
section
/-! DEFINITION. Bits: the bit notation of spec/00_scope.md R9 and R10 as functions. -/

namespace Sys2Proof.Machine

/-- `v[j]` (R9): bit j, LSB first from 0. -/
def bit (v : BitVec w) (j : Nat) : Bool := v.getLsbD j

/-- `pos_N(v, p) = v[N - p]` (R10): position p, MSB first from 1. -/
def posBit (v : BitVec w) (p : Nat) : Bool := bit v (w - p)

/-- The `Bits_w` value whose bit j is `f j`, for `j < w`. -/
def ofBits : (w : Nat) → (Nat → Bool) → BitVec w
  | 0, _ => 0#0
  | w + 1, f => BitVec.cons (f w) (ofBits w f)

/-- `v[lo+len-1:lo]` (R9): a slice of `len` bits, `v[lo]` becoming bit 0. -/
def slice (v : BitVec w) (lo len : Nat) : BitVec len := v.extractLsb' lo len

end Sys2Proof.Machine
end

