-- ==== Sys2Proof/Machine/Operands.lean ====
section
/-! DEFINITION. Operands: the fields of an edge input word (spec/30_encoding.md R51, R52) and the word of given fields. -/

namespace Sys2Proof.Machine

/-- Field `R`, bit 11: port `rst` (R51). -/
def rstField (w : EdgeWord) : Bit := slice w 11 1

/-- Field `V`, bit 10: port `valid_in` (R51). -/
def validField (w : EdgeWord) : Bit := slice w 10 1

/-- Field `K`, bits 9:0: port `key_in`, taken unchanged (R51, R52). -/
def keyField (w : EdgeWord) : Word10 := slice w 0 10

/-- `EIW12 = {rst, valid_in, key_in}` (R51). -/
def edgeWord (rst validIn : Bit) (keyIn : Word10) : EdgeWord := rst ++ validIn ++ keyIn

end Sys2Proof.Machine
end

