-- ==== Sys2Proof/Machine/Tables.lean ====
section
/-! DEFINITION. Tables: the constants of spec/10_state.md R24, the well-formedness of a table (R56) and its TBL word (R55). -/

namespace Sys2Proof.Machine

/-- `P10` (R24). -/
def tableP10 : Table := [3, 5, 2, 7, 4, 10, 1, 9, 8, 6]

/-- `P8` (R24). -/
def tableP8 : Table := [6, 3, 7, 4, 8, 5, 10, 9]

/-- `LS1`: the left rotation of each half in round 1 (R24). -/
def ls1 : Nat := 1

/-- `LS2`: the left rotation of each half in round 2 (R24). -/
def ls2 : Nat := 2

/-- `HALF_MASK` (R24). -/
def halfMask : Half := 0x1F#5

/-- `wf(T, W_t, W_s)` (R56). Repeated and omitted positions are legal. -/
def tableWf (t : Table) (wT wS : Nat) : Bool :=
  decide (t.length = wT) && decide (1 ≤ wT) && decide (1 ≤ wS) && decide (wS ≤ Config.maxSource) &&
    t.all fun e => decide (1 ≤ e) && decide (e ≤ wS)

/-- The number whose base-16 digits are the entries, the first one the most significant. -/
def nibbles (acc : Nat) : Table → Nat
  | [] => acc
  | e :: t => nibbles (16 * acc + e) t

/-- `TBL(T)` (R55): one 4-bit entry after the other, `T[0]` in the most significant nibble. -/
def packTbl (t : Table) : BitVec (4 * t.length) := BitVec.ofNat (4 * t.length) (nibbles 0 t)

/-- The table a TBL word of target width `wT` holds: `T[i]` is bits `4*(wT-i)-1 .. 4*(wT-i)-4` (R55). -/
def unpackTbl (wT : Nat) (w : BitVec (4 * wT)) : Table :=
  (List.range wT).map fun i => (slice w (4 * (wT - 1 - i)) 4).toNat

end Sys2Proof.Machine
end

