-- ==== Sys2Proof/Syntax.lean ====
section
/-! DEFINITION. Syntax: the rows of spec/opcode_table.json, one constructor each. -/

namespace Sys2Proof

/-- The operations of the block. `reset`, `derive` and `idle` are what one edge word can ask for (R53); `wait` is the
pseudo-instruction of the stimulus text (R61); the others are the internal datapath operations (R58) with their
operands. -/
inductive Instr where
  /-- RESET (R124). -/
  | reset
  /-- DERIVE k (R126). -/
  | derive (k : Word10)
  /-- IDLE (R125). -/
  | idle
  /-- WAIT n, `n >= 1` (R61). -/
  | wait (n : Nat)
  /-- PERM(v, T, W_t, W_s) (R70). -/
  | perm (wT wS : Nat) (t : Table) (v : BitVec wS)
  /-- PERM_P10 (R75). -/
  | permP10 (v : Word10)
  /-- PERM_P8 (R76). -/
  | permP8 (v : Word10)
  /-- SPLIT5 (R90). -/
  | split5 (x : Word10)
  /-- ROTL5(x, n), `0 <= n <= 5` (R91); an integer, since R91 also speaks of a negative n. -/
  | rotl5 (x : Half) (n : Int)
  /-- ROTL5_1 (R92). -/
  | rotl5By1 (x : Half)
  /-- ROTL5_2 (R93). -/
  | rotl5By2 (x : Half)
  /-- JOIN5(L, R) (R94). -/
  | join5 (l r : Half)
  deriving DecidableEq, Repr

end Sys2Proof
end

