-- ==== Sys2Proof/WellFormed.lean ====
section
/-! DEFINITION. WellFormed: which operations the spec gives a meaning (elaboration-time and stimulus-time checks). -/

namespace Sys2Proof

/-- A WAIT has a count of at least 1 (R61), a PERM a well-formed table (R56), a ROTL5 an amount in `[0, 5]` (R91). Every
other operation is total on its typed operands (R101). -/
def Instr.wf : Instr → Bool
  | .reset => true
  | .derive _ => true
  | .idle => true
  | .wait n => decide (1 ≤ n)
  | .perm wT wS t _ => Machine.tableWf t wT wS
  | .permP10 _ => true
  | .permP8 _ => true
  | .split5 _ => true
  | .rotl5 _ n => decide (0 ≤ n) && decide (n ≤ 5)
  | .rotl5By1 _ => true
  | .rotl5By2 _ => true
  | .join5 _ _ => true

end Sys2Proof
end

