-- ==== Sys2Proof/Decode.lean ====
section
/-! DEFINITION. Decode: what an edge input word asks for (spec/30_encoding.md R53), then the encoder (R53, R61). -/

namespace Sys2Proof

/-- `decode(w)` (R53), total on all 4096 words: no word is illegal or reserved (R54). `RESET` wins over `V`; the
don't-care bits of a RESET or IDLE word are dropped. -/
def decode (w : EdgeWord) : Instr :=
  if Machine.rstField w = 1#1 then .reset
  else if Machine.validField w = 1#1 then .derive (Machine.keyField w)
  else .idle

/-- A row of R53: a word belongs to it when it agrees with `pattern` on the bits of `mask`. -/
structure Row where
  pattern : EdgeWord
  mask : EdgeWord
  deriving DecidableEq, Repr

/-- The word has the row's fixed bits. -/
def rowMatches (r : Row) (w : EdgeWord) : Bool := decide (w &&& r.mask = r.pattern)

/-- RESET: match `0x800`, mask `0x800` (R53). -/
def rowReset : Row := { pattern := 0x800#12, mask := 0x800#12 }

/-- DERIVE: match `0x400`, mask `0xC00` (R53). -/
def rowDerive : Row := { pattern := 0x400#12, mask := 0xC00#12 }

/-- IDLE: match `0x000`, mask `0xC00` (R53). -/
def rowIdle : Row := { pattern := 0x000#12, mask := 0xC00#12 }

/-- The three rows of R53, in the order of its decoder. -/
def edgeRows : List Row := [rowReset, rowDerive, rowIdle]

/-- The edge words of an operation (R53, and R61 for the don't-care bits, written as 0, and for WAIT). An internal
operation is selected by no input bits (R58), so it has no edge word. -/
def encode : Instr → List EdgeWord
  | .reset => [Machine.edgeWord 1#1 0#1 0#10]
  | .derive k => [Machine.edgeWord 0#1 1#1 k]
  | .idle => [Machine.edgeWord 0#1 0#1 0#10]
  | .wait n => List.replicate n (Machine.edgeWord 0#1 0#1 0#10)
  | .perm _ _ _ _ => []
  | .permP10 _ => []
  | .permP8 _ => []
  | .split5 _ => []
  | .rotl5 _ _ => []
  | .rotl5By1 _ => []
  | .rotl5By2 _ => []
  | .join5 _ _ => []

/-- The table an engine operation is wired with, as `TBL` field of its opcode row (R55, R57): the target width and the
word. -/
def tblOf : Instr → Option ((wT : Nat) × BitVec (4 * wT))
  | .perm _ _ t _ => some ⟨t.length, Machine.packTbl t⟩
  | .permP10 _ => some ⟨10, Machine.packTbl Machine.tableP10⟩
  | .permP8 _ => some ⟨8, Machine.packTbl Machine.tableP8⟩
  | .reset | .derive _ | .idle | .wait _ | .split5 _ | .rotl5 _ _ | .rotl5By1 _ | .rotl5By2 _ | .join5 _ _ => none

/-- The edge word that a row's bits are, the table's numbering being EIW12's own (bit 11 is `R`). A number of whole bytes
has bits above bit 11; no port carries them (log entry 10). -/
def tableEdgeWord (nbits w : Nat) : EdgeWord := BitVec.ofNat 12 (w % 2 ^ nbits)

/-- The instruction the decoder reads from an edge word whose bits are `w`. -/
def decodeTableWord (nbits w : Nat) : Option Instr := some (decode (tableEdgeWord nbits w))

end Sys2Proof
end

