-- ==== Sys2Proof/Machine/Datapath.lean ====
section
/-! DEFINITION. Datapath: the combinational operations of spec/40_permutation_engine.md and spec/41_key_schedule.md as
pure functions. The stages and the instructions of these names are both built from them. -/

namespace Sys2Proof.Machine

/-- `sel_j = W_s - T[W_t - 1 - j]` (R73): the source bit that drives output bit j. -/
def selIndex (wS : Nat) (t : Table) (j : Nat) : Nat := wS - t.getD (t.length - 1 - j) 0

/-- `PERM(v, T, W_t, W_s)` in its select form (R70, R73): one constant-select multiplexer per output bit (R74). It is
used only where `tableWf t wT wS` holds (R56). -/
def perm (wT wS : Nat) (t : Table) (v : BitVec wS) : BitVec wT :=
  ofBits wT fun j => bit v (selIndex wS t j)

/-- `PERM_P10` (R75). -/
def permP10 (v : Word10) : Word10 := perm 10 10 tableP10 v

/-- `PERM_P8` (R76). -/
def permP8 (v : Word10) : Subkey := perm 8 10 tableP8 v

/-- The two halves of a 10-bit value, the left one the higher. -/
structure Halves where
  l : Half
  r : Half
  deriving DecidableEq, Repr

/-- `SPLIT5(x)` (R90): `L = x[9:5]`, `R = x[4:0]`. -/
def split5 (x : Word10) : Halves := { l := slice x 5 5, r := slice x 0 5 }

/-- `ROTL5(x, n) = ((x << n) | (x >> (5 - n))) & 0x1F` (R91), read at full width before the mask, then truncated
to the mask's width (R12). It is used only for `n <= 5`. -/
def rotl5 (x : Half) (n : Nat) : Half :=
  (((x.setWidth 10 <<< n) ||| (x.setWidth 10 >>> (5 - n))) &&& halfMask.setWidth 10).setWidth 5

/-- `ROTL5_1(x)` (R92). -/
def rotl5By1 (x : Half) : Half := rotl5 x ls1

/-- `ROTL5_2(x)` (R93). -/
def rotl5By2 (x : Half) : Half := rotl5 x ls2

/-- `JOIN5(L, R) = {L, R}` (R94), by the source's formula `(L << 5) | R`. -/
def join5 (l r : Half) : Word10 := (l.setWidth 10 <<< 5) ||| r.setWidth 10

/-- The three dedicated instances of the engine (R77). -/
def uP10 (key : Word10) : Word10 := permP10 key

/-- Instance `U_P8A`: C1 to K1, stage 1 (R77). -/
def uP8A (c1 : Word10) : Subkey := permP8 c1

/-- Instance `U_P8B`: C2 to K2, stage 2 (R77). -/
def uP8B (c2 : Word10) : Subkey := permP8 c2

/-- The results of round 1 (R95). -/
structure Stage1Out where
  p : Word10
  c1 : Word10
  k1 : Subkey
  deriving DecidableEq, Repr

/-- The results of round 2 (R96). -/
structure Stage2Out where
  c2 : Word10
  k2 : Subkey
  deriving DecidableEq, Repr

/-- C1 from P: split, rotate each half by 1, join (R95 steps 2 to 4). -/
def roundOne (p : Word10) : Word10 :=
  join5 (rotl5By1 (split5 p).l) (rotl5By1 (split5 p).r)

/-- C2 from C1: split again, rotate each half by 2, join (R96 steps 6 to 8; R99: the halves come from C1). -/
def roundTwo (c1 : Word10) : Word10 :=
  join5 (rotl5By2 (split5 c1).l) (rotl5By2 (split5 c1).r)

/-- `STAGE1(key) = (P, C1, K1)` (R95). -/
def stage1 (key : Word10) : Stage1Out :=
  { p := uP10 key, c1 := roundOne (uP10 key), k1 := uP8A (roundOne (uP10 key)) }

/-- `STAGE2(c1) = (C2, K2)` (R96). -/
def stage2 (c1 : Word10) : Stage2Out :=
  { c2 := roundTwo c1, k2 := uP8B (roundTwo c1) }

/-- `DERIVE_TAPS(key) = (K1, K2, P, C1, C2)` (R97). -/
structure Taps where
  k1 : Subkey
  k2 : Subkey
  p : Word10
  c1 : Word10
  c2 : Word10
  deriving DecidableEq, Repr

/-- `DERIVE_TAPS(key)` (R97). -/
def deriveTaps (key : Word10) : Taps :=
  { k1 := (stage1 key).k1, k2 := (stage2 (stage1 key).c1).k2, p := (stage1 key).p, c1 := (stage1 key).c1,
    c2 := (stage2 (stage1 key).c1).c2 }

/-- `DERIVE(key) = (K1, K2)` (R97). -/
def deriveSubkeys (key : Word10) : Subkey × Subkey := ((deriveTaps key).k1, (deriveTaps key).k2)

end Sys2Proof.Machine
end

