-- ==== Sys2Proof/Machine/Flags.lean ====
section
/-! DEFINITION. Flags: the block has no flags or condition codes (spec/10_state.md R22). Its only one-bit status values are
the two valid bits, whose next values are here. -/

namespace Sys2Proof.Machine

/-- `s1_valid` after an edge: 0 at a reset edge, else `valid_in` (R122). -/
def nextS1Valid (rst validIn : Bit) : Bit := if rst = 1#1 then 0#1 else validIn

/-- `s2_valid` after an edge: 0 at a reset edge, else what stage 1 held (R122). -/
def nextS2Valid (rst s1Valid : Bit) : Bit := if rst = 1#1 then 0#1 else s1Valid

end Sys2Proof.Machine
end

