-- ==== Sys2Proof/Machine/State.lean ====
section
/-! DEFINITION. State: the ten pipeline registers of spec/10_state.md R27, the model's two own fields, the reasons a run can
stop (spec/60_exceptions.md R153) and the state after reset (R30). -/

namespace Sys2Proof.Machine

/-- Why the machine stops with a fault. R153 knows one. -/
inductive Fault where
  /-- `UnspecRead`. Raised by `State.advanceStage2`, so by IDLE, DERIVE and WAIT: `s1_valid` = 1 with an `unspec` stage-1
  register (R122). Unreachable from a reset edge (R32). Safe: the model stops where hardware would go on with some value. -/
  | unspecRead
  deriving DecidableEq, Repr

/-- Why an operation or a stimulus has no meaning. The five named by R153, and the host's. -/
inductive Refusal where
  /-- An operation whose meaning is not written. Raised by nothing in this model: every row has its meaning. Safe. -/
  | notModelled (mnemonic : String)
  /-- `InvalidPermutationTable`. Raised by `elabTable`, so by PERM (R56, R142). Safe: such an instance does not exist. -/
  | invalidPermutationTable
  /-- `RotationOutOfRange`. Raised by `elabRotation`, so by ROTL5 (R91). Safe: no such rotation is wired. -/
  | rotationOutOfRange
  /-- `NoResetYet`. Raised by `launch` and `observation` on a stimulus whose first word is no RESET (R162). Safe. -/
  | noResetYet
  /-- `KeyOutOfRange`. Raised by `parseKey` on stimulus text (R61). Safe. -/
  | keyOutOfRange
  /-- `StimulusSyntax`. Raised by the stimulus text functions, and by WAIT with a count of 0 (R61). Safe. -/
  | stimulusSyntax
  deriving DecidableEq, Repr

/-- What a datapath operation drives on its output. -/
inductive OpOut where
  /-- One `Bits_w` value. -/
  | bits (w : Nat) (v : BitVec w)
  /-- The two halves of SPLIT5. -/
  | halves (l r : Half)
  deriving DecidableEq, Repr

/-- The state: R27's tuple, where `none` is `unspec` (R14, R27), and two fields of the model's own. -/
structure State where
  /-- `s1_valid`: the stage-1 set holds a request (R25). -/
  s1Valid : Bit
  /-- `s1_p`: P of the request in stage 1 (R25). -/
  s1P : Option Word10
  /-- `s1_c1`: C1 of the request in stage 1 (R25). -/
  s1C1 : Option Word10
  /-- `s1_k1`: K1 of the request in stage 1 (R25). -/
  s1K1 : Option Subkey
  /-- `s2_valid`: the stage-2 set holds a finished request (R26). -/
  s2Valid : Bit
  /-- `s2_p`: drives `p10_out` (R26). -/
  s2P : Option Word10
  /-- `s2_c1`: drives `c1_out` (R26). -/
  s2C1 : Option Word10
  /-- `s2_c2`: drives `c2_out` (R26). -/
  s2C2 : Option Word10
  /-- `s2_k1`: drives `k1_out` (R26). -/
  s2K1 : Option Subkey
  /-- `s2_k2`: drives `k2_out` (R26). -/
  s2K2 : Option Subkey
  /-- The model's own: the edge words the driver has still to present, one per edge (R28, R131; log entry 2). -/
  stim : List EdgeWord
  /-- The model's own: the output of the datapath operation last run on its own (log entry 5). -/
  opOut : Option OpOut
  deriving DecidableEq, Repr

/-- The state after a reset edge (R30), which is the launch state of a model (R31, R161), with no stimulus loaded and no
operation run on its own. -/
def State.reset : State :=
  { s1Valid := 0#1, s1P := none, s1C1 := none, s1K1 := none,
    s2Valid := 0#1, s2P := none, s2C1 := none, s2C2 := none, s2K1 := none, s2K2 := none,
    stim := [], opOut := none }

end Sys2Proof.Machine
end

