-- ==== Sys2Proof/Machine/Ops.lean ====
section
/-! DEFINITION. Ops: the named operations over the registers, and the clocked step of spec/42_pipeline.md R122. The block has no
memory (R40) and no trap entry or return (R145, R146), so there is no operation for either. -/

namespace Sys2Proof.Machine

/-- The outcome of one operation. -/
abbrev Result := Host.Outcome State Fault Refusal

/-- The `rst = 1` branch of R122: both valid bits 0, every data register `unspec` (R124, R30). -/
def State.cleared (s : State) : State :=
  { s with
    s1Valid := nextS1Valid 1#1 0#1, s1P := none, s1C1 := none, s1K1 := none,
    s2Valid := nextS2Valid 1#1 s.s1Valid, s2P := none, s2C1 := none, s2C2 := none, s2K1 := none, s2K2 := none }

/-- Stage 1 at an edge without reset (R122): it takes `valid_in`, and loads STAGE1 of the key only when that is 1. -/
def State.loadStage1 (s : State) (validIn : Bit) (keyIn : Word10) : State :=
  if validIn = 1#1 then
    { s with
      s1Valid := nextS1Valid 0#1 validIn, s1P := some (stage1 keyIn).p, s1C1 := some (stage1 keyIn).c1,
      s1K1 := some (stage1 keyIn).k1 }
  else { s with s1Valid := nextS1Valid 0#1 validIn }

/-- Stage 2 at an edge without reset (R122): it takes what stage 1 held, and loads only when that is valid. A valid stage 1
with an `unspec` register is the fault `UnspecRead`. -/
def State.advanceStage2 (s : State) : Except Fault State :=
  if s.s1Valid = 1#1 then
    match s.s1P, s.s1C1, s.s1K1 with
    | some p, some c1, some k1 =>
      .ok { s with
        s2Valid := nextS2Valid 0#1 s.s1Valid, s2P := some p, s2C1 := some c1, s2K1 := some k1,
        s2C2 := some (stage2 c1).c2, s2K2 := some (stage2 c1).k2 }
    | _, _, _ => .error .unspecRead
  else .ok { s with s2Valid := nextS2Valid 0#1 s.s1Valid }

/-- The clocked step (R122). Stage 2 reads the stage-1 registers from before the edge, so it is computed first; it writes
no register that stage 1's load reads. -/
def edge (rst validIn : Bit) (keyIn : Word10) (s : State) : Result :=
  if rst = 1#1 then .next s.cleared
  else match s.advanceStage2 with
    | .ok t => .next (t.loadStage1 validIn keyIn)
    | .error f => .fault f

/-- The output of a datapath operation run on its own. It writes nothing else (R72). -/
def State.setOpOut (s : State) (o : OpOut) : State := { s with opOut := some o }

/-- Load the words the driver will present. -/
def State.setStim (s : State) (ws : List EdgeWord) : State := { s with stim := ws }

/-- Elaboration of an engine (R56, R142): an instance whose table is ill-formed does not exist. -/
def elabTable (t : Table) (wT wS : Nat) : Except Refusal Table :=
  if tableWf t wT wS then .ok t else .error .invalidPermutationTable

/-- Elaboration of a rotation amount (R91): outside `[0, 5]` it is refused. -/
def elabRotation (n : Int) : Except Refusal Nat :=
  if 0 ≤ n ∧ n ≤ 5 then .ok n.toNat else .error .rotationOutOfRange

end Sys2Proof.Machine
end

