-- ==== Sys2Proof/Machine/KeySchedule.lean ====
section
/-! DEFINITION. KeySchedule: the meanings of SPLIT5, ROTL5, ROTL5_1, ROTL5_2 and JOIN5 (spec/41_key_schedule.md). Each is a
pure function: it drives its output and leaves every register alone. -/

namespace Sys2Proof.Machine

/-- SPLIT5 (R90). -/
def execSplit5 (x : Word10) (s : State) : Result := .next (s.setOpOut (.halves (split5 x).l (split5 x).r))

/-- ROTL5 (R91): the rotated half, or `RotationOutOfRange`. -/
def execRotl5 (x : Half) (n : Int) (s : State) : Result :=
  match elabRotation n with
  | .ok k => .next (s.setOpOut (.bits 5 (rotl5 x k)))
  | .error r => .refused r

/-- ROTL5_1 (R92). -/
def execRotl5By1 (x : Half) (s : State) : Result := .next (s.setOpOut (.bits 5 (rotl5By1 x)))

/-- ROTL5_2 (R93). -/
def execRotl5By2 (x : Half) (s : State) : Result := .next (s.setOpOut (.bits 5 (rotl5By2 x)))

/-- JOIN5 (R94). -/
def execJoin5 (l r : Half) (s : State) : Result := .next (s.setOpOut (.bits 10 (join5 l r)))

end Sys2Proof.Machine
end

