-- ==== Sys2Proof/Machine/PermutationEngine.lean ====
section
/-! DEFINITION. PermutationEngine: the meanings of PERM, PERM_P10 and PERM_P8 (spec/40_permutation_engine.md). Each is
combinational: it drives its output and leaves every register alone (R72). -/

namespace Sys2Proof.Machine

/-- PERM (R70): the engine's output, or `InvalidPermutationTable` (R56). -/
def execPerm (wT wS : Nat) (t : Table) (v : BitVec wS) (s : State) : Result :=
  match elabTable t wT wS with
  | .ok u => .next (s.setOpOut (.bits wT (perm wT wS u v)))
  | .error r => .refused r

/-- PERM_P10 (R75). -/
def execPermP10 (v : Word10) (s : State) : Result := .next (s.setOpOut (.bits 10 (permP10 v)))

/-- PERM_P8 (R76). -/
def execPermP8 (v : Word10) (s : State) : Result := .next (s.setOpOut (.bits 8 (permP8 v)))

end Sys2Proof.Machine
end

