-- ==== Sys2Proof/Machine/Pipeline.lean ====
section
/-! DEFINITION. Pipeline: the meanings of the requests RESET, IDLE and DERIVE (spec/42_pipeline.md) and of WAIT
(spec/30_encoding.md R61). -/

namespace Sys2Proof.Machine

/-- RESET (R124): an edge with `rst` = 1. The other inputs are ignored. -/
def execReset (s : State) : Result := edge 1#1 0#1 0#10 s

/-- IDLE (R125): an edge with `rst` = 0 and `valid_in` = 0. `key_in` is ignored. -/
def execIdle (s : State) : Result := edge 0#1 0#1 0#10 s

/-- DERIVE k (R126): an edge with `rst` = 0, `valid_in` = 1 and `key_in` = k. -/
def execDerive (k : Word10) (s : State) : Result := edge 0#1 1#1 k s

/-- `n` IDLE edges, stopping where one stops. -/
def idleEdges : Nat → State → Result
  | 0, s => .next s
  | n + 1, s =>
    match execIdle s with
    | .next t => idleEdges n t
    | .fault f => .fault f
    | .refused r => .refused r

/-- WAIT n (R61): n copies of IDLE. A count of 0 does not match the grammar: `StimulusSyntax` (log entry 8). -/
def execWait (n : Nat) (s : State) : Result :=
  if n = 0 then .refused .stimulusSyntax else idleEdges n s

end Sys2Proof.Machine
end

