-- ==== Sys2Proof/Machine/Dispatch.lean ====
section
/-! DEFINITION. Dispatch: one arm per operation of spec/opcode_table.json. -/

namespace Sys2Proof.Machine

/-- The outcome of one operation at a state. -/
def exec (i : Instr) (s : State) : Host.Outcome State Fault Refusal :=
  match i with
  | .reset => Sys2Proof.Machine.execReset s
  | .derive k => Sys2Proof.Machine.execDerive k s
  | .idle => Sys2Proof.Machine.execIdle s
  | .wait n => Sys2Proof.Machine.execWait n s
  | .perm wT wS t v => Sys2Proof.Machine.execPerm wT wS t v s
  | .permP10 v => Sys2Proof.Machine.execPermP10 v s
  | .permP8 v => Sys2Proof.Machine.execPermP8 v s
  | .split5 x => Sys2Proof.Machine.execSplit5 x s
  | .rotl5 x n => Sys2Proof.Machine.execRotl5 x n s
  | .rotl5By1 x => Sys2Proof.Machine.execRotl5By1 x s
  | .rotl5By2 x => Sys2Proof.Machine.execRotl5By2 x s
  | .join5 l r => Sys2Proof.Machine.execJoin5 l r s

end Sys2Proof.Machine
end

