-- ==== Sys2Proof/Machine/Step.lean ====
section
/-! DEFINITION. Step: one clock edge with the next stimulus word (spec/42_pipeline.md R122, R131). -/

namespace Sys2Proof.Machine

/-- The next rising edge samples the first word still to present and does what it asks for. With no word left the clock is
stopped: no edge, no change (R152; log entry 3). -/
def step (s : State) : Host.Outcome State Fault Refusal :=
  match s.stim with
  | [] => .next s
  | w :: ws => exec (decode w) (s.setStim ws)

/-- `s` with the given edge word presented at the next edge, in place of the word that would have been (log entry 10). -/
def State.withFetchWord (s : State) (nbits w : Nat) : State :=
  s.setStim (tableEdgeWord nbits w :: s.stim.tail)

end Sys2Proof.Machine
end

