-- ==== Sys2Proof/Machine/Outputs.lean ====
section
/-! DEFINITION. Outputs: the output ports as functions of the state alone (spec/42_pipeline.md R121, R123) and the result
bundle OUT47 (spec/30_encoding.md R59). -/

namespace Sys2Proof.Machine

/-- The output ports between two edges (R121); a data port shows no value where its register is `unspec` (R123). -/
structure Ports where
  validOut : Bit
  k1Out : Option Subkey
  k2Out : Option Subkey
  p10Out : Option Word10
  c1Out : Option Word10
  c2Out : Option Word10
  deriving DecidableEq, Repr

/-- The outputs (R123). -/
def State.outputs (s : State) : Ports :=
  { validOut := s.s2Valid, k1Out := s.s2K1, k2Out := s.s2K2, p10Out := s.s2P, c1Out := s.s2C1, c2Out := s.s2C2 }

/-- `OUT47 = {valid_out, k1_out, k2_out, p10_out, c1_out, c2_out}` (R59). -/
def out47 (valid : Bit) (k1 k2 : Subkey) (p c1 c2 : Word10) : ResultWord := valid ++ k1 ++ k2 ++ p ++ c1 ++ c2

/-- The ports as one word, where no field is `unspec` (R59). -/
def Ports.word (o : Ports) : Option ResultWord :=
  match o.k1Out, o.k2Out, o.p10Out, o.c1Out, o.c2Out with
  | some k1, some k2, some p, some c1, some c2 => some (out47 o.validOut k1 k2 p c1 c2)
  | _, _, _, _, _ => none

/-- What an observer may read between two edges: the bundle while `valid_out` = 1, nothing otherwise (R131, R164). -/
def State.delivered (s : State) : Option ResultWord :=
  if s.outputs.validOut = 1#1 then s.outputs.word else none

end Sys2Proof.Machine
end

