-- ==== Sys2Proof/Machine/Observe.lean ====
section
/-! DEFINITION. Observe: running and observing a stimulus given as edge words (spec/42_pipeline.md R131,
spec/70_reset_and_hazards.md R162). -/

namespace Sys2Proof.Machine

/-- One edge with the sampled word `w`. -/
def edgeOf (w : EdgeWord) (s : State) : Result := exec (decode w) s

/-- The edges of a stimulus in order, stopping where one stops. -/
def runEdges : List EdgeWord → State → Result
  | [], s => .next s
  | w :: ws, s =>
    match edgeOf w s with
    | .next t => runEdges ws t
    | .fault f => .fault f
    | .refused r => .refused r

/-- The first word of a stimulus is a RESET (R131, R162). -/
def startsWithReset : List EdgeWord → Bool
  | [] => false
  | w :: _ => decide (decode w = .reset)

/-- A stimulus loaded from outside onto the launch state, or `NoResetYet` (R162; log entry 4). -/
def launch (ws : List EdgeWord) : Result :=
  if startsWithReset ws then .next (State.reset.setStim ws) else .refused .noResetYet

/-- The pair `(t, OUT47)` of the interval after edge t, where a result is delivered (R131). -/
def observed (t : Nat) (s : State) : List (Nat × ResultWord) :=
  match s.delivered with
  | some r => [(t, r)]
  | none => []

/-- The observation of the edges t, t+1, ... from a state. A run that stops is observed no further. -/
def observeFrom : Nat → State → List EdgeWord → List (Nat × ResultWord)
  | _, _, [] => []
  | t, s, w :: ws =>
    match edgeOf w s with
    | .next u => observed t u ++ observeFrom (t + 1) u ws
    | .fault _ => []
    | .refused _ => []

/-- The observation of a stimulus (R131), or `NoResetYet`. Edges are numbered from 1. -/
def observation (ws : List EdgeWord) : Except Refusal (List (Nat × ResultWord)) :=
  if startsWithReset ws then .ok (observeFrom 1 State.reset ws) else .error .noResetYet

/-- A run that ended in `s` is complete: every DERIVE sampled after its last RESET has been delivered (R131). -/
def State.complete (s : State) : Bool := decide (s.s1Valid = 0#1)

end Sys2Proof.Machine
end

