-- ==== Sys2Proof/Machine/StimulusText.lean ====
section
/-! DEFINITION. StimulusText: the stimulus assembly syntax of spec/30_encoding.md R61, from characters to edge words. What R61
leaves open of the text (blanks, comments, NEWLINE, the case of hex letters, which refusal a text with two errors gets) is in log
entries 11, 12 and 14. -/

namespace Sys2Proof.Machine

/-- A blank separates the words of a statement (log entry 11). -/
def isBlank (c : Char) : Bool := c == ' ' || c == '\t'

/-- The lines of a text, each ended by NEWLINE; `cur` is the line read so far, reversed. None if text follows the last
NEWLINE. -/
def splitLines (cur : List Char) : List Char → Option (List (List Char))
  | [] => if cur.isEmpty then some [] else none
  | c :: cs =>
    if c == '\n' then
      match splitLines [] cs with
      | some ls => some (cur.reverse :: ls)
      | none => none
    else splitLines (c :: cur) cs

/-- A line without its comment (R61), which starts at its first `;`. DESIGN CHOICE: `comment` is any run of characters up to
NEWLINE, none at all and further `;` among them (log entry 11). -/
def stripComment (line : List Char) : List Char := line.takeWhile fun c => c != ';'

/-- The words of a line; `cur` is the word read so far, reversed. -/
def splitWords (cur : List Char) : List Char → List (List Char)
  | [] => if cur.isEmpty then [] else [cur.reverse]
  | c :: cs =>
    if isBlank c then
      if cur.isEmpty then splitWords [] cs else cur.reverse :: splitWords [] cs
    else splitWords (c :: cur) cs

/-- The value of a digit, both cases of a hex letter. -/
def digitValue (c : Char) : Option Nat :=
  if 48 ≤ c.toNat ∧ c.toNat ≤ 57 then some (c.toNat - 48)
  else if 65 ≤ c.toNat ∧ c.toNat ≤ 70 then some (c.toNat - 55)
  else if 97 ≤ c.toNat ∧ c.toNat ≤ 102 then some (c.toNat - 87)
  else none

/-- The number written by digits of a base, `acc` being the value of those before; none at a character that is no digit of
the base. -/
def numeralFrom (base acc : Nat) : List Char → Option Nat
  | [] => some acc
  | c :: cs =>
    match digitValue c with
    | some d => if d < base then numeralFrom base (base * acc + d) cs else none
    | none => none

/-- A numeral of at least one digit. -/
def numeral (base : Nat) (cs : List Char) : Option Nat := if cs.isEmpty then none else numeralFrom base 0 cs

/-- A binary key: at most 10 digits, zero-extended on the left (R61). -/
def parseBinKey (ds : List Char) : Except Refusal Word10 :=
  match numeral 2 ds with
  | none => .error .stimulusSyntax
  | some v => if ds.length ≤ 10 then .ok (BitVec.ofNat 10 v) else .error .keyOutOfRange

/-- A hex key: at most `0x3FF`, at most 3 digits (R61; log entry 12). -/
def parseHexKey (ds : List Char) : Except Refusal Word10 :=
  match numeral 16 ds with
  | none => .error .stimulusSyntax
  | some v =>
    if 0x3FF < v then .error .keyOutOfRange
    else if ds.length ≤ 3 then .ok (BitVec.ofNat 10 v) else .error .stimulusSyntax

/-- `key` (R61). -/
def parseKey : List Char → Except Refusal Word10
  | '0' :: 'b' :: ds => parseBinKey ds
  | '0' :: 'x' :: ds => parseHexKey ds
  | _ => .error .stimulusSyntax

/-- `count`: a decimal number of at least 1 (R61). -/
def parseCount (cs : List Char) : Except Refusal Nat :=
  match numeral 10 cs with
  | none => .error .stimulusSyntax
  | some n => if 1 ≤ n then .ok n else .error .stimulusSyntax

/-- `stmt`, from the words of a line; a line with no word is no statement (R61). DESIGN CHOICE: a line with words beyond its
statement's is `StimulusSyntax` even where its key is over range, since the number of words is looked at first (log entry
14). -/
def parseStmt : List (List Char) → Except Refusal (Option Instr)
  | [] => .ok none
  | [w] =>
    if w = ['R', 'E', 'S', 'E', 'T'] then .ok (some .reset)
    else if w = ['I', 'D', 'L', 'E'] then .ok (some .idle)
    else .error .stimulusSyntax
  | [w, a] =>
    if w = ['D', 'E', 'R', 'I', 'V', 'E'] then
      match parseKey a with
      | .ok k => .ok (some (.derive k))
      | .error r => .error r
    else if w = ['W', 'A', 'I', 'T'] then
      match parseCount a with
      | .ok n => .ok (some (.wait n))
      | .error r => .error r
    else .error .stimulusSyntax
  | _ => .error .stimulusSyntax

/-- One line: its statement's edge words, none for a line with no statement (R61). -/
def assembleLine (line : List Char) : Except Refusal (List EdgeWord) :=
  match parseStmt (splitWords [] (stripComment line)) with
  | .ok (some i) => .ok (encode i)
  | .ok none => .ok []
  | .error r => .error r

/-- The lines in order; the first line that is refused refuses the text. DESIGN CHOICE (log entry 14). -/
def assembleLines : List (List Char) → Except Refusal (List EdgeWord)
  | [] => .ok []
  | l :: ls =>
    match assembleLine l with
    | .error r => .error r
    | .ok ws =>
      match assembleLines ls with
      | .error r => .error r
      | .ok vs => .ok (ws ++ vs)

/-- The edge words of a stimulus text (R61). DESIGN CHOICE: a text whose last line has no NEWLINE is `StimulusSyntax` even
where an earlier line is `KeyOutOfRange`, since the text is cut into lines first (log entry 14). -/
def assemble (text : List Char) : Except Refusal (List EdgeWord) :=
  match splitLines [] text with
  | some ls => assembleLines ls
  | none => .error .stimulusSyntax

/-- A stimulus text loaded onto the launch state. -/
def launchText (text : List Char) : Result :=
  match assemble text with
  | .ok ws => launch ws
  | .error r => .refused r

end Sys2Proof.Machine
end

