-- ==== Sys2Proof/Safety.lean ====
section
/-! DEFINITION. Safety: the terms statements are made in: what a register set holds, the invariant of spec/10_state.md R32, and
what a stimulus delivers (spec/42_pipeline.md R127, R128). -/

namespace Sys2Proof.Safety

open Sys2Proof.Machine

/-- The stage-1 data registers all hold a value. -/
def Stage1Specified (s : State) : Prop := s.s1P.isSome ∧ s.s1C1.isSome ∧ s.s1K1.isSome

/-- The stage-2 branch of R122 does not read `unspec`. -/
def Readable (s : State) : Prop := s.s1Valid = 1#1 → Stage1Specified s

/-- `(s1_p, s1_c1, s1_k1) = STAGE1(k)`. -/
def Stage1Holds (s : State) (k : Word10) : Prop :=
  s.s1P = some (stage1 k).p ∧ s.s1C1 = some (stage1 k).c1 ∧ s.s1K1 = some (stage1 k).k1

/-- The stage-2 data registers hold `DERIVE_TAPS(k)`. -/
def Stage2Holds (s : State) (k : Word10) : Prop :=
  s.s2P = some (deriveTaps k).p ∧ s.s2C1 = some (deriveTaps k).c1 ∧ s.s2C2 = some (deriveTaps k).c2 ∧
    s.s2K1 = some (deriveTaps k).k1 ∧ s.s2K2 = some (deriveTaps k).k2

/-- Every stage-1 data register is `unspec`. -/
def Stage1Unspec (s : State) : Prop := s.s1P = none ∧ s.s1C1 = none ∧ s.s1K1 = none

/-- Every stage-2 data register is `unspec`. -/
def Stage2Unspec (s : State) : Prop :=
  s.s2P = none ∧ s.s2C1 = none ∧ s.s2C2 = none ∧ s.s2K1 = none ∧ s.s2K2 = none

/-- R32 as a property of one state: a valid set holds the values of one key, and a set's data registers are either all
`unspec` or all the values of one key. -/
def PipeInv (s : State) : Prop :=
  (s.s1Valid = 1#1 → ∃ k, Stage1Holds s k) ∧
  (s.s2Valid = 1#1 → ∃ k, Stage2Holds s k) ∧
  (Stage1Unspec s ∨ ∃ k, Stage1Holds s k) ∧
  (Stage2Unspec s ∨ ∃ k, Stage2Holds s k)

/-- The ten registers of the block are the same in both states (R27). -/
def SameRegs (s t : State) : Prop :=
  s.s1Valid = t.s1Valid ∧ s.s1P = t.s1P ∧ s.s1C1 = t.s1C1 ∧ s.s1K1 = t.s1K1 ∧
  s.s2Valid = t.s2Valid ∧ s.s2P = t.s2P ∧ s.s2C1 = t.s2C1 ∧ s.s2C2 = t.s2C2 ∧ s.s2K1 = t.s2K1 ∧ s.s2K2 = t.s2K2

/-- The registers stage 2 reads are the same in both states (R128). -/
def SameStage1 (s t : State) : Prop :=
  s.s1Valid = t.s1Valid ∧ s.s1P = t.s1P ∧ s.s1C1 = t.s1C1 ∧ s.s1K1 = t.s1K1

/-- The data registers of stage 2 are the same in both states. -/
def SameStage2Data (s t : State) : Prop :=
  s.s2P = t.s2P ∧ s.s2C1 = t.s2C1 ∧ s.s2C2 = t.s2C2 ∧ s.s2K1 = t.s2K1 ∧ s.s2K2 = t.s2K2

/-- The operations run on their own: they drive `opOut` and touch no register (R58, R72). -/
def isInternal : Instr → Bool
  | .perm _ _ _ _ | .permP10 _ | .permP8 _ | .split5 _ | .rotl5 _ _ | .rotl5By1 _ | .rotl5By2 _ | .join5 _ _ => true
  | .reset | .derive _ | .idle | .wait _ => false

/-- The word asks for a derivation (R53). -/
def isDerive (w : EdgeWord) : Bool :=
  match decode w with
  | .derive _ => true
  | _ => false

/-- The bundle that delivers key k: `valid_out` = 1 with `DERIVE_TAPS(k)` (R59, R126). -/
def bundle (k : Word10) : ResultWord :=
  out47 1#1 (deriveTaps k).k1 (deriveTaps k).k2 (deriveTaps k).p (deriveTaps k).c1 (deriveTaps k).c2

/-- What the word sampled at edge `t`, with the word of the next edge, delivers after that next edge: the result of a
DERIVE unless the next edge is a reset edge (R127). -/
def deliveredAfter (t : Nat) (w next : EdgeWord) : List (Nat × ResultWord) :=
  if decode next = .reset then []
  else match decode w with
    | .derive k => [(t + Config.latency - 1, bundle k)]
    | _ => []

/-- What the words sampled at edges t, t+1, ... deliver, in order. -/
def deliveries : Nat → List EdgeWord → List (Nat × ResultWord)
  | t, w :: next :: ws => deliveredAfter t w next ++ deliveries (t + 1) (next :: ws)
  | _, _ => []

/-- The keys of the DERIVE words sampled after the last RESET word of a stimulus (R32 item 3), the first word being the
oldest; `acc` are those before. -/
def keysSinceReset (acc : List Word10) : List EdgeWord → List Word10
  | [] => acc
  | w :: ws =>
    match decode w with
    | .reset => keysSinceReset [] ws
    | .derive k => keysSinceReset (acc ++ [k]) ws
    | _ => keysSinceReset acc ws

/-- The table holds each of `1 .. n` exactly once (R78 item 3). -/
def HoldsEachOnce (t : Table) (n : Nat) : Prop := ∀ p, 1 ≤ p → p ≤ n → t.count p = 1

/-- The number of one bits of a value (R75). -/
def ones (v : BitVec w) : Nat := (List.range w).countP fun j => bit v j

/-- `T1 ∘ T2`: entry i is `T1[T2[i] - 1]` (R78 item 2). -/
def composeTables (t1 t2 : Table) : Table := t2.map fun e => t1.getD (e - 1) 0

/-- A binary numeral's characters, the first digit the most significant (R61). -/
def binaryDigits (ds : List Bool) : List Char := ds.map fun b => if b then '1' else '0'

/-- The base-2 unsigned integer of those digits (R61). -/
def binaryValue (ds : List Bool) : Nat := ds.foldl (fun a b => 2 * a + b.toNat) 0

/-- A decimal numeral's characters (R61). -/
def decimalDigits (ds : List (Fin 10)) : List Char := ds.map fun d => Char.ofNat (48 + d.val)

/-- The number those digits write. -/
def decimalValue (ds : List (Fin 10)) : Nat := ds.foldl (fun a d => 10 * a + d.val) 0

/-- The hex digits in order of their value, in either case (R61; log entry 11). -/
def hexChars (upper : Bool) : List Char :=
  if upper then ['0', '1', '2', '3', '4', '5', '6', '7', '8', '9', 'A', 'B', 'C', 'D', 'E', 'F']
  else ['0', '1', '2', '3', '4', '5', '6', '7', '8', '9', 'a', 'b', 'c', 'd', 'e', 'f']

/-- A hex numeral's characters, the case chosen digit by digit. -/
def hexDigits (ds : List (Bool × Fin 16)) : List Char := ds.map fun d => (hexChars d.1).getD d.2.val ' '

/-- The number those digits write. -/
def hexValue (ds : List (Bool × Fin 16)) : Nat := ds.foldl (fun a d => 16 * a + d.2.val) 0

/-- The line `word numeral` with its NEWLINE (R61). -/
def textLine (word numeral : List Char) : List Char := word ++ [' '] ++ numeral ++ ['\n']

/-- `I_n = [1, 2, ..., n]` (R78 item 1). -/
def identityTable (n : Nat) : Table := (List.range n).map fun i => i + 1

end Sys2Proof.Safety
end

