-- ==== Sys2Proof/Certificates/Slice0/Obligations.lean ====
section
/-! DEFINITION. Obligations: statements for the provers. Each docstring names the rules of spec/ it formalises. -/

open Sys2Proof Sys2Proof.Machine Sys2Proof.Safety

/-! ## Encodings (spec/30_encoding.md) -/

/-- The words of spec/95_test_vectors.md section 4 decode as they are listed there. -/
def Obligations.SpecWordsDecode : Prop :=
  decode 0x000#12 = .idle ∧ decode 0x3FF#12 = .idle ∧ decode 0x400#12 = .derive 0x000#10 ∧
  decode 0x682#12 = .derive 0x282#10 ∧ decode 0x7FF#12 = .derive 0x3FF#10 ∧ decode 0x800#12 = .reset ∧
  decode 0xC00#12 = .reset ∧ decode 0xD23#12 = .reset ∧ decode 0xFFF#12 = .reset

/-- R53: bit 11 decides RESET, then bit 10 decides DERIVE of bits 9:0, else IDLE; each row's mask and match select the words
that decode to it, and exactly one row matches a word. -/
def Obligations.DecodeFollowsItsRows : Prop :=
  ∀ w : EdgeWord,
    decode w = (if w.getLsbD 11 then .reset else if w.getLsbD 10 then .derive (w.extractLsb' 0 10) else .idle) ∧
    (rowMatches rowReset w = true ↔ decode w = .reset) ∧
    (rowMatches rowDerive w = true ↔ decode w = .derive (w.extractLsb' 0 10)) ∧
    (rowMatches rowIdle w = true ↔ decode w = .idle) ∧
    (edgeRows.filter fun r => rowMatches r w).length = 1

/-- R53, R61: the edge words of every request and of WAIT decode to that request, every key among them, and to n IDLEs. -/
def Obligations.DecodeEncodeAgree : Prop :=
  ∀ i : Instr, i.wf = true →
    match i with
    | .reset => ∃ w, encode i = [w] ∧ decode w = .reset
    | .derive k => ∃ w, encode i = [w] ∧ decode w = .derive k
    | .idle => ∃ w, encode i = [w] ∧ decode w = .idle
    | .wait n => (encode i).length = n ∧ ∀ w ∈ encode i, decode w = .idle
    | _ => encode i = []

/-- R53, R54: encoding what a word decodes to gives the word back, its don't-care bits written as 0. -/
def Obligations.EncodeDecodeClearsDontCares : Prop :=
  ∀ w : EdgeWord,
    encode (decode w) = [if w.getLsbD 11 then 0x800#12 else if w.getLsbD 10 then w else 0x000#12]

/-- R54: the don't-care bits of a RESET or IDLE word change nothing, and no word is illegal: two words of one row with the
same cared-for bits run alike. -/
def Obligations.DontCareBitsHaveNoEffect : Prop :=
  ∀ (w w' : EdgeWord) (s : State),
    (w.getLsbD 11 = true → w'.getLsbD 11 = true → edgeOf w s = edgeOf w' s) ∧
    (w.getLsbD 11 = false → w.getLsbD 10 = false → w'.getLsbD 11 = false → w'.getLsbD 10 = false →
      edgeOf w s = edgeOf w' s) ∧
    (∀ r, edgeOf w s ≠ .refused r)

/-- R57: the two TBL words of this hardware, and both tables are well-formed. -/
def Obligations.TblWordsOfThisHardware : Prop :=
  packTbl tableP10 = 0x35274A1986#40 ∧ packTbl tableP8 = 0x637485A9#32 ∧
  tableWf tableP10 10 10 = true ∧ tableWf tableP8 8 10 = true ∧
  (∀ v, tblOf (.permP10 v) = some ⟨10, 0x35274A1986#40⟩) ∧ ∀ v, tblOf (.permP8 v) = some ⟨8, 0x637485A9#32⟩

/-- R55: entry i of a well-formed table stands in bits `4*(W_t-i)-1 .. 4*(W_t-i)-4` of its TBL word. -/
def Obligations.TblHoldsEachEntryInItsNibble : Prop :=
  ∀ (t : Table) (wT wS : Nat), tableWf t wT wS = true →
    ∀ (i : Nat) (hi : i < t.length), ((packTbl t).extractLsb' (4 * (t.length - i) - 4) 4).toNat = t[i]

/-- R55: a well-formed table is read back from its TBL word, and a TBL word is the word of the table it holds. -/
def Obligations.TblRoundTrips : Prop :=
  (∀ (t : Table) (wT wS : Nat), tableWf t wT wS = true → unpackTbl t.length (packTbl t) = t) ∧
  ∀ (n : Nat) (w : BitVec (4 * n)), (packTbl (unpackTbl n w)).toNat = w.toNat

/-! ## The permutation engine (spec/40_permutation_engine.md) -/

/-- R70, R73: with a well-formed table, output position i+1 is source position T[i], and output bit j is driven by the source bit
`W_s - T[W_t - 1 - j]`, which is in range. -/
def Obligations.PermSelectsTablePositions : Prop :=
  ∀ (wT wS : Nat) (t : Table) (v : BitVec wS), tableWf t wT wS = true →
    (∀ i, i < wT → posBit (perm wT wS t v) (i + 1) = posBit v (t.getD i 0)) ∧
    (∀ j, j < wT → wS - t.getD (wT - 1 - j) 0 < wS ∧
      (perm wT wS t v).getLsbD j = v.getLsbD (wS - t.getD (wT - 1 - j) 0))

/-- R56: an engine exists exactly when the table's length is W_t, the widths are in range and every entry is in `[1, W_s]`, and
it then holds that table; any other is refused. -/
def Obligations.IllFormedTableIsRefused : Prop :=
  ∀ (wT wS : Nat) (t : Table),
    (elabTable t wT wS = .error .invalidPermutationTable ↔
      (t.length ≠ wT ∨ wT = 0 ∨ wS = 0 ∨ 15 < wS ∨ ∃ e ∈ t, e = 0 ∨ wS < e)) ∧
    (t.length = wT ∧ 1 ≤ wT ∧ 1 ≤ wS ∧ wS ≤ 15 ∧ (∀ e ∈ t, 1 ≤ e ∧ e ≤ wS) → elabTable t wT wS = .ok t)

/-- PERM, ROTL5 and WAIT as operations: with operands in range PERM and ROTL5 complete with the value of R70 and R91 and change
nothing but the output, and out of range each is refused. The field the output is seen in, and that `exec` answers an
elaboration-time refusal, are the model's choice (log entries 5, 6, 8). -/
def Obligations.GenericOperationsRunOrRefuse : Prop :=
  (∀ (wT wS : Nat) (t : Table) (v : BitVec wS) (s : State), t.length = wT → 1 ≤ wT → 1 ≤ wS → wS ≤ 15 →
    (∀ e ∈ t, 1 ≤ e ∧ e ≤ wS) →
    exec (.perm wT wS t v) s = .next { s with opOut := some (.bits wT (perm wT wS t v)) }) ∧
  (∀ (wT wS : Nat) (t : Table) (v : BitVec wS) (s : State),
    t.length ≠ wT ∨ wT = 0 ∨ wS = 0 ∨ 15 < wS ∨ (∃ e ∈ t, e = 0 ∨ wS < e) →
    exec (.perm wT wS t v) s = .refused .invalidPermutationTable) ∧
  (∀ (x : Half) (n : Int) (s : State), 0 ≤ n → n ≤ 5 →
    exec (.rotl5 x n) s = .next { s with opOut := some (.bits 5 (rotl5 x n.toNat)) }) ∧
  (∀ (x : Half) (n : Int) (s : State), n < 0 ∨ 5 < n → exec (.rotl5 x n) s = .refused .rotationOutOfRange) ∧
  ∀ s : State, exec (.wait 0) s = .refused .stimulusSyntax

/-- R78 item 1: the identity table permutes nothing. -/
def Obligations.PermIdentity : Prop :=
  ∀ (n : Nat) (v : BitVec n), 1 ≤ n → perm n n (identityTable n) v = v

/-- R78 item 2: two permutations in a row are one with the composed table, which is well-formed. -/
def Obligations.PermComposition : Prop :=
  ∀ (wT wM wS : Nat) (t1 t2 : Table) (v : BitVec wS), tableWf t1 wM wS = true → tableWf t2 wT wM = true →
    tableWf (composeTables t1 t2) wT wS = true ∧
    perm wT wM t2 (perm wM wS t1 v) = perm wT wS (composeTables t1 t2) v

/-- R78 item 3: PERM with a square table is a bijection exactly when the table holds each position once. -/
def Obligations.PermBijectionIff : Prop :=
  ∀ (n : Nat) (t : Table), tableWf t n n = true →
    (Function.Bijective (perm n n t) ↔ HoldsEachOnce t n)

/-- R78 item 4: PERM distributes over OR, AND and XOR. -/
def Obligations.PermLinearity : Prop :=
  ∀ (wT wS : Nat) (t : Table) (a b : BitVec wS),
    perm wT wS t (a ||| b) = perm wT wS t a ||| perm wT wS t b ∧
    perm wT wS t (a &&& b) = perm wT wS t a &&& perm wT wS t b ∧
    perm wT wS t (a ^^^ b) = perm wT wS t a ^^^ perm wT wS t b

/-- R75, R76: PERM_P10 is `{v[7], v[5], v[8], v[3], v[6], v[0], v[9], v[1], v[2], v[4]}`, a bijection that keeps the number of one
bits and is undone by the table of R75's corner cases; PERM_P8 is `{v[4], v[7], v[3], v[6], v[2], v[5], v[0], v[1]}`, and bits
9:8 never reach its output. -/
def Obligations.PermutationInstancesSelectTheirBits : Prop :=
  (∀ v : Word10, permP10 v = BitVec.ofBoolListBE [v[7], v[5], v[8], v[3], v[6], v[0], v[9], v[1], v[2], v[4]]) ∧
  Function.Bijective permP10 ∧ (∀ v, ones (permP10 v) = ones v) ∧
  (∀ v, perm 10 10 [7, 3, 1, 5, 2, 10, 4, 9, 8, 6] (permP10 v) = v) ∧
  (∀ v : Word10, permP8 v = BitVec.ofBoolListBE [v[4], v[7], v[3], v[6], v[2], v[5], v[0], v[1]]) ∧
  (∀ v v' : Word10, v.extractLsb' 0 8 = v'.extractLsb' 0 8 → permP8 v = permP8 v')

/-- PERM_P10 and PERM_P8 as operations complete and change nothing but the output, which holds the bits R75 and R76 select. That `exec`
runs them, and that the output is seen in the model's own field, is the model's choice (log entries 5, 6). -/
def Obligations.PermInstancesComplete : Prop :=
  (∀ (v : Word10) (s : State), exec (.permP10 v) s = .next { s with opOut := some (.bits 10
      (BitVec.ofBoolListBE [v[7], v[5], v[8], v[3], v[6], v[0], v[9], v[1], v[2], v[4]])) }) ∧
  (∀ (v : Word10) (s : State), exec (.permP8 v) s = .next { s with opOut := some (.bits 8
      (BitVec.ofBoolListBE [v[4], v[7], v[3], v[6], v[2], v[5], v[0], v[1]])) })

/-! ## The key schedule (spec/41_key_schedule.md) -/

/-- R90, R92, R93, R94: SPLIT5 gives x[9:5] and x[4:0]; ROTL5_1 is `{x[3:0], x[4]}` and five of them the identity; ROTL5_2 is
`{x[2:0], x[4:3]}` and two ROTL5_1; JOIN5 is `{L, R}`, and splitting and joining undo each other. -/
def Obligations.HalvesSplitRotateAndJoin : Prop :=
  (∀ x : Word10, (∀ j, j < 5 → (split5 x).l.getLsbD j = x.getLsbD (j + 5)) ∧
    (∀ j, j < 5 → (split5 x).r.getLsbD j = x.getLsbD j) ∧ join5 (split5 x).l (split5 x).r = x) ∧
  (∀ x, rotl5By1 x = BitVec.ofBoolListBE [x[3], x[2], x[1], x[0], x[4]]) ∧
  (∀ x, rotl5By1 (rotl5By1 (rotl5By1 (rotl5By1 (rotl5By1 x)))) = x) ∧
  (∀ x, rotl5By2 x = BitVec.ofBoolListBE [x[2], x[1], x[0], x[4], x[3]]) ∧
  (∀ x, rotl5By2 x = rotl5By1 (rotl5By1 x)) ∧
  (∀ l r : Half, join5 l r = l ++ r ∧ split5 (join5 l r) = { l := l, r := r })

/-- SPLIT5, ROTL5_1, ROTL5_2 and JOIN5 as operations complete and change nothing but the output, which holds the bits R90 and R92
to R94 select. That `exec` runs them, and that the output is seen in the model's own field, is the model's choice (log entries
5, 6). -/
def Obligations.HalfOperationsComplete : Prop :=
  (∀ (x : Word10) (s : State), exec (.split5 x) s = .next { s with opOut := some (.halves
      (BitVec.ofBoolListBE [x[9], x[8], x[7], x[6], x[5]]) (BitVec.ofBoolListBE [x[4], x[3], x[2], x[1], x[0]])) }) ∧
  (∀ (x : Half) (s : State), exec (.rotl5By1 x) s = .next { s with opOut := some (.bits 5
      (BitVec.ofBoolListBE [x[3], x[2], x[1], x[0], x[4]])) }) ∧
  (∀ (x : Half) (s : State), exec (.rotl5By2 x) s = .next { s with opOut := some (.bits 5
      (BitVec.ofBoolListBE [x[2], x[1], x[0], x[4], x[3]])) }) ∧
  (∀ (l r : Half) (s : State), exec (.join5 l r) s = .next { s with opOut := some (.bits 10 (l ++ r)) })

/-- R91: for an amount in `[0, 5]` ROTL5 is the source's formula, moves bit j to bit `(j + n) mod 5` and keeps the number of one
bits; 0 and 5 change nothing; an amount outside is refused at elaboration and one inside is not. -/
def Obligations.Rotl5RotatesOrRefuses : Prop :=
  (∀ (x : Half) (n : Nat), n ≤ 5 →
    (rotl5 x n).toNat = ((x.toNat <<< n) ||| (x.toNat >>> (5 - n))) &&& 0x1F ∧
    (∀ j, j < 5 → (rotl5 x n).getLsbD ((j + n) % 5) = x.getLsbD j) ∧ ones (rotl5 x n) = ones x) ∧
  (∀ x, rotl5 x 0 = x ∧ rotl5 x 5 = x) ∧
  ∀ n : Int, (elabRotation n = .error .rotationOutOfRange ↔ n < 0 ∨ 5 < n) ∧
    (0 ≤ n → n ≤ 5 → elabRotation n = .ok n.toNat)

/-- Run on their own in the order of R58, each on the outputs of those before, the internal operations give what STAGE1 and
STAGE2 give (R95, R96). That `exec` runs them, and that the outputs are seen in the model's own field, is the model's choice
(log entries 5, 6). -/
def Obligations.InternalOperationsMakeTheStages : Prop :=
  ∀ (key : Word10) (s : State), ∃ (p : Word10) (l0 r0 l1 r1 : Half) (c1 : Word10) (k1 : Subkey) (l2 r2 : Half) (c2 : Word10)
      (k2 : Subkey),
    exec (.permP10 key) s = .next { s with opOut := some (.bits 10 p) } ∧
    exec (.split5 p) s = .next { s with opOut := some (.halves l0 r0) } ∧
    exec (.rotl5By1 l0) s = .next { s with opOut := some (.bits 5 l1) } ∧
    exec (.rotl5By1 r0) s = .next { s with opOut := some (.bits 5 r1) } ∧
    exec (.join5 l1 r1) s = .next { s with opOut := some (.bits 10 c1) } ∧
    exec (.permP8 c1) s = .next { s with opOut := some (.bits 8 k1) } ∧
    stage1 key = { p := p, c1 := c1, k1 := k1 } ∧
    exec (.split5 c1) s = .next { s with opOut := some (.halves l1 r1) } ∧
    exec (.rotl5By2 l1) s = .next { s with opOut := some (.bits 5 l2) } ∧
    exec (.rotl5By2 r1) s = .next { s with opOut := some (.bits 5 r2) } ∧
    exec (.join5 l2 r2) s = .next { s with opOut := some (.bits 10 c2) } ∧
    exec (.permP8 c2) s = .next { s with opOut := some (.bits 8 k2) } ∧
    stage2 c1 = { c2 := c2, k2 := k2 } ∧
    deriveTaps key = { k1 := k1, k2 := k2, p := p, c1 := c1, c2 := c2 }

/-- R98: DERIVE_TAPS is a fixed bit selection from the key, and the output ports show it after the edge that follows the
sampling edge, if that is no reset edge. -/
def Obligations.DeriveClosedForm : Prop :=
  ∀ (k : Word10) (s : State) (w : EdgeWord), Readable s → decode w ≠ .reset →
    ∃ p c1 c2 k1 k2, deriveTaps k = { k1 := k1, k2 := k2, p := p, c1 := c1, c2 := c2 } ∧
      p = BitVec.ofBoolListBE [k[7], k[5], k[8], k[3], k[6], k[0], k[9], k[1], k[2], k[4]] ∧
      c1 = BitVec.ofBoolListBE [k[5], k[8], k[3], k[6], k[7], k[9], k[1], k[2], k[4], k[0]] ∧
      c2 = BitVec.ofBoolListBE [k[3], k[6], k[7], k[5], k[8], k[2], k[4], k[0], k[9], k[1]] ∧
      k1 = BitVec.ofBoolListBE [k[9], k[3], k[1], k[6], k[2], k[7], k[0], k[4]] ∧
      k2 = BitVec.ofBoolListBE [k[2], k[7], k[4], k[5], k[0], k[8], k[1], k[9]] ∧
      ∃ t u, exec (.derive k) s = .next t ∧ edgeOf w t = .next u ∧ u.delivered = some (out47 1#1 k1 k2 p c1 c2)

/-- R102: full-circle rotation, rotation composition, the round-2 halves, the boundary keys and linearity. -/
def Obligations.ScheduleLaws : Prop :=
  (∀ x, rotl5 (rotl5 x 1) 4 = x) ∧
  (∀ x a b, a ≤ 5 → b ≤ 5 → rotl5 (rotl5 x a) b = rotl5 x ((a + b) % 5)) ∧
  (∀ k, split5 (deriveTaps k).c2 =
    { l := rotl5 (split5 (deriveTaps k).p).l 3, r := rotl5 (split5 (deriveTaps k).p).r 3 }) ∧
  deriveSubkeys 0x000#10 = (0x00#8, 0x00#8) ∧ deriveSubkeys 0x3FF#10 = (0xFF#8, 0xFF#8) ∧
  (∀ a b, deriveSubkeys (a ^^^ b) =
    ((deriveSubkeys a).1 ^^^ (deriveSubkeys b).1, (deriveSubkeys a).2 ^^^ (deriveSubkeys b).2)) ∧
  (∀ a b, deriveSubkeys (a ||| b) =
    ((deriveSubkeys a).1 ||| (deriveSubkeys b).1, (deriveSubkeys a).2 ||| (deriveSubkeys b).2)) ∧
  (∀ a b, deriveSubkeys (a &&& b) =
    ((deriveSubkeys a).1 &&& (deriveSubkeys b).1, (deriveSubkeys a).2 &&& (deriveSubkeys b).2))

/-! ## The pipeline (spec/42_pipeline.md) -/

/-- R124: from any state RESET clears both valid bits and leaves every data register `unspec`; `valid_in` and `key_in` are
ignored; reset edges in a row act as one; what was in flight is gone and the next edge may carry a DERIVE. -/
def Obligations.ResetEdgeEmptiesTheBlock : Prop :=
  ∀ s : State,
    exec .reset s = .next { s with
      s1Valid := 0#1, s1P := none, s1C1 := none, s1K1 := none,
      s2Valid := 0#1, s2P := none, s2C1 := none, s2C2 := none, s2K1 := none, s2K2 := none } ∧
    (∀ v k, edgeOf (edgeWord 1#1 v k) s = exec .reset s) ∧
    ∀ t, exec .reset s = .next t → exec .reset t = .next t ∧ t.outputs.validOut = 0#1 ∧
      ∀ k, ∃ u, exec (.derive k) t = .next u ∧ Stage1Holds u k ∧ u.s1Valid = 1#1 ∧ u.s2Valid = 0#1

/-- R125: IDLE puts a bubble into stage 1 and moves stage 2 on; two IDLE edges empty the pipeline. -/
def Obligations.IdleEdgeInsertsABubble : Prop :=
  ∀ s : State,
    (s.s1Valid = 0#1 → exec .idle s = .next { s with s1Valid := 0#1, s2Valid := 0#1 }) ∧
    (∀ p c1 k1, s.s1Valid = 1#1 → s.s1P = some p → s.s1C1 = some c1 → s.s1K1 = some k1 →
      exec .idle s = .next { s with
        s1Valid := 0#1, s2Valid := 1#1, s2P := some p, s2C1 := some c1, s2K1 := some k1,
        s2C2 := some (stage2 c1).c2, s2K2 := some (stage2 c1).k2 }) ∧
    (∀ k, edgeOf (edgeWord 0#1 0#1 k) s = exec .idle s) ∧
    (Readable s → ∃ t u, exec .idle s = .next t ∧ exec .idle t = .next u ∧ u.outputs.validOut = 0#1)

/-- The sampling edge of DERIVE k (R126, R122): stage 1 loads STAGE1(k), stage 2 takes what stage 1 held, all else stays. -/
def Obligations.DeriveEdgeLoadsStage1 : Prop :=
  ∀ (k : Word10) (s : State),
    (s.s1Valid = 0#1 → exec (.derive k) s = .next { s with
      s1Valid := 1#1, s1P := some (stage1 k).p, s1C1 := some (stage1 k).c1, s1K1 := some (stage1 k).k1,
      s2Valid := 0#1 }) ∧
    (∀ p c1 k1, s.s1Valid = 1#1 → s.s1P = some p → s.s1C1 = some c1 → s.s1K1 = some k1 →
      exec (.derive k) s = .next { s with
        s1Valid := 1#1, s1P := some (stage1 k).p, s1C1 := some (stage1 k).c1, s1K1 := some (stage1 k).k1,
        s2Valid := 1#1, s2P := some p, s2C1 := some c1, s2K1 := some k1,
        s2C2 := some (stage2 c1).c2, s2K2 := some (stage2 c1).k2 })

/-- R126: a DERIVE sampled at an edge whose next edge is no reset edge shows `(1, DERIVE(k))` and the taps after that next edge;
a reset there discards it; the two boundary keys give the two boundary pairs. -/
def Obligations.DeriveDeliversAfterTheNextEdge : Prop :=
  deriveSubkeys 0x000#10 = (0x00#8, 0x00#8) ∧ deriveSubkeys 0x3FF#10 = (0xFF#8, 0xFF#8) ∧
  ∀ (s : State) (k : Word10) (w : EdgeWord), Readable s →
    ∃ t u, edgeOf (edgeWord 0#1 1#1 k) s = .next t ∧ t.s1Valid = 1#1 ∧ Stage1Holds t k ∧ edgeOf w t = .next u ∧
      (decode w ≠ .reset → u.outputs =
        { validOut := 1#1, k1Out := some (deriveSubkeys k).1, k2Out := some (deriveSubkeys k).2,
          p10Out := some (deriveTaps k).p, c1Out := some (deriveTaps k).c1, c2Out := some (deriveTaps k).c2 }) ∧
      (decode w = .reset → u.outputs =
        { validOut := 0#1, k1Out := none, k2Out := none, p10Out := none, c1Out := none, c2Out := none })

/-- R127: a result stays with `valid_out` = 1 for one interval; the edge after replaces it by the result of a DERIVE sampled one
edge earlier, by a bubble with the data held, or by a reset. -/
def Obligations.ResultStaysOneInterval : Prop :=
  ∀ (s : State) (k : Word10) (w w2 : EdgeWord), Readable s → decode w ≠ .reset →
    ∃ t u x, exec (.derive k) s = .next t ∧ edgeOf w t = .next u ∧ edgeOf w2 u = .next x ∧
      u.delivered = some (bundle k) ∧
      (decode w2 = .reset → x.delivered = none ∧ Stage2Unspec x) ∧
      (decode w2 ≠ .reset → ∀ j, decode w = .derive j → x.delivered = some (bundle j)) ∧
      (decode w2 ≠ .reset → decode w = .idle → x.outputs = { u.outputs with validOut := 0#1 })

/-- R122: one clock edge, every register from the values before it. A valid stage 1 with an `unspec` register is a fault at an
edge without reset. -/
def Obligations.ClockedStep : Prop :=
  ∀ (s : State) (rst v : Bit) (k : Word10),
    (rst = 1#1 ∨ Readable s →
      ∃ t, edgeOf (edgeWord rst v k) s = .next t ∧
        t.s1Valid = (if rst = 1#1 then 0#1 else v) ∧
        t.s1P = (if rst = 1#1 then none else if v = 1#1 then some (stage1 k).p else s.s1P) ∧
        t.s1C1 = (if rst = 1#1 then none else if v = 1#1 then some (stage1 k).c1 else s.s1C1) ∧
        t.s1K1 = (if rst = 1#1 then none else if v = 1#1 then some (stage1 k).k1 else s.s1K1) ∧
        t.s2Valid = (if rst = 1#1 then 0#1 else s.s1Valid) ∧
        t.s2P = (if rst = 1#1 then none else if s.s1Valid = 1#1 then s.s1P else s.s2P) ∧
        t.s2C1 = (if rst = 1#1 then none else if s.s1Valid = 1#1 then s.s1C1 else s.s2C1) ∧
        t.s2K1 = (if rst = 1#1 then none else if s.s1Valid = 1#1 then s.s1K1 else s.s2K1) ∧
        t.s2C2 = (if rst = 1#1 then none else if s.s1Valid = 1#1 then s.s1C1.map fun c => (stage2 c).c2 else s.s2C2) ∧
        t.s2K2 = (if rst = 1#1 then none else if s.s1Valid = 1#1 then s.s1C1.map fun c => (stage2 c).k2 else s.s2K2)) ∧
    (rst = 0#1 → ¬ Readable s → edgeOf (edgeWord rst v k) s = .fault .unspecRead)

/-- WAIT n as an operation (R61; log entry 7) runs n IDLE words: stage 1 empty with its data held, the request it held delivered after the first edge. -/
def Obligations.WaitIsThatManyIdleEdges : Prop :=
  ∀ (n : Nat) (s : State), 1 ≤ n → Readable s →
    ∃ t u, exec .idle s = .next t ∧ exec (.wait n) s = .next u ∧ runEdges (List.replicate n 0x000#12) s = .next u ∧
      u = { t with s2Valid := if n = 1 then s.s1Valid else 0#1 }

/-- R122, R153: with `s1_valid` = 1 and an `unspec` stage-1 register every edge without reset (IDLE, DERIVE) faults. That WAIT n,
run as one operation, is that fault too is the model's choice (log entry 7). -/
def Obligations.UnspecReadFaults : Prop :=
  ∀ s : State, ¬ Readable s →
    exec .idle s = .fault .unspecRead ∧ (∀ k, exec (.derive k) s = .fault .unspecRead) ∧
    ∀ n, 1 ≤ n → exec (.wait n) s = .fault .unspecRead

/-- A step samples the next stimulus word and runs the operation it decodes to on the state with that word gone. That the
stimulus stands in the state is the model's choice (log entry 2). -/
def Obligations.StepRunsTheDecodedWord : Prop :=
  ∀ (s : State) (w : EdgeWord) (ws : List EdgeWord), s.stim = w :: ws →
    step s = exec (decode w) { s with stim := ws }

/-- With no word left there is no edge and nothing changes: the model's reading of R152 (log entry 3). -/
def Obligations.NoEdgeNoChange : Prop :=
  ∀ s : State, s.stim = [] → step s = .next s

/-- R128: a sampled key decides stage 1 alone, whatever the state before; what the next edge without reset puts into stage 2
depends on the registers stage 2 reads alone, not on the word sampled at that edge nor on an earlier result; and what an edge
leaves in stage 1 depends on the word and on stage 1 alone. -/
def Obligations.RequestsDoNotInterfere : Prop :=
  (∀ (s s' : State) (w : EdgeWord) (t t' : State), SameStage1 s s' → edgeOf w s = .next t → edgeOf w s' = .next t' →
    SameStage1 t t' ∧ t.s2Valid = t'.s2Valid ∧ (t.s2Valid = 1#1 → SameStage2Data t t')) ∧
  (∀ (s s' : State) (w w' : EdgeWord) (t t' : State), SameStage1 s s' → decode w ≠ .reset → decode w' ≠ .reset →
    edgeOf w s = .next t → edgeOf w' s' = .next t' →
    t.s2Valid = t'.s2Valid ∧ (t.s2Valid = 1#1 → SameStage2Data t t')) ∧
  (∀ (s s' : State) (k : Word10) (t t' : State), exec (.derive k) s = .next t → exec (.derive k) s' = .next t' →
    SameStage1 t t')

/-- R165, R124: after a reset edge, whatever was in flight, words that carry no DERIVE never deliver anything. -/
def Obligations.ResetDiscardsRequestsInFlight : Prop :=
  ∀ (s t : State) (ws : List EdgeWord), exec .reset s = .next t → (∀ w ∈ ws, isDerive w = false) →
    ∃ u, runEdges ws t = .next u ∧ Stage1Unspec u ∧ Stage2Unspec u ∧ u.s1Valid = 0#1 ∧ u.outputs.validOut = 0#1 ∧
      ∀ n, observeFrom n t ws = []

/-! ## Outputs (spec/42_pipeline.md R123, spec/30_encoding.md R59) -/

/-- R59: the fields of OUT47 stand where R59 puts them. -/
def Obligations.ResultBundleLayout : Prop :=
  ∀ (v : Bit) (k1 k2 : Subkey) (p c1 c2 : Word10),
    (out47 v k1 k2 p c1 c2).extractLsb' 46 1 = v ∧ (out47 v k1 k2 p c1 c2).extractLsb' 38 8 = k1 ∧
    (out47 v k1 k2 p c1 c2).extractLsb' 30 8 = k2 ∧ (out47 v k1 k2 p c1 c2).extractLsb' 20 10 = p ∧
    (out47 v k1 k2 p c1 c2).extractLsb' 10 10 = c1 ∧ (out47 v k1 k2 p c1 c2).extractLsb' 0 10 = c2

/-- R123: the ports show the stage-2 registers and nothing else: two states with the same stage-2 registers show the same. -/
def Obligations.OutputsShowStage2 : Prop :=
  (∀ s : State, s.outputs.validOut = s.s2Valid ∧ s.outputs.k1Out = s.s2K1 ∧ s.outputs.k2Out = s.s2K2 ∧
    s.outputs.p10Out = s.s2P ∧ s.outputs.c1Out = s.s2C1 ∧ s.outputs.c2Out = s.s2C2) ∧
  ∀ s s' : State, s.s2Valid = s'.s2Valid → SameStage2Data s s' → s.outputs = s'.outputs

/-! ## Invariants and the whole machine -/

/-- R30: the state after reset. -/
def Obligations.ResetState : Prop :=
  State.reset.s1Valid = 0#1 ∧ State.reset.s2Valid = 0#1 ∧ Stage1Unspec State.reset ∧ Stage2Unspec State.reset

/-- R32 holds of the state after reset. -/
def Obligations.PipelineInvariantAtReset : Prop := PipeInv State.reset

/-- R32: every step from a state that meets the invariant, not only on a run from reset, leads to one that meets it.
That the stimulus stands in the state, and that a step with no word left changes nothing, is the model's reading (log entries
2, 3). -/
def Obligations.StepKeepsPipelineInvariant : Prop :=
  ∀ s t : State, PipeInv s → step s = .next t → PipeInv t

/-- R32: every operation keeps the invariant. That the internal rows are operations of `exec`, seen in the model's own field, and
that WAIT is one operation, is the model's choice (log entries 5, 6, 7). -/
def Obligations.OperationsKeepPipelineInvariant : Prop :=
  ∀ (i : Instr) (s t : State), PipeInv s → exec i s = .next t → PipeInv t

/-- R140, R153: no step from a state that meets the invariant stops. That a step with no word left changes nothing is the
model's reading (log entries 2, 3). -/
def Obligations.NoStepStopsUnderPipelineInvariant : Prop :=
  ∀ s : State, PipeInv s → ∃ t, step s = .next t

/-- R140, R101: every well-formed operation completes in every state whose stage 1 can be read. That the internal rows and WAIT
are operations of `exec` is the model's choice (log entries 5, 6, 7). -/
def Obligations.WellFormedOperationsComplete : Prop :=
  ∀ (i : Instr) (s : State), i.wf = true → Readable s → ∃ t, exec i s = .next t

/-- R153: the only fault is `UnspecRead`, of an edge without reset at an unreadable stage 1; the only refusals are those of an
ill-formed table, rotation amount or count. That `exec` answers these refusals, WAIT 0 among them, and that WAIT faults as one
operation, is the model's choice (log entries 6, 7, 8). -/
def Obligations.StopsAreTheListedOnes : Prop :=
  ∀ (i : Instr) (s : State),
    (∀ f, exec i s = .fault f → f = .unspecRead ∧ ¬ Readable s ∧ isInternal i = false ∧ i ≠ .reset) ∧
    (∀ r, exec i s = .refused r → i.wf = false ∧
      (r = .invalidPermutationTable ∨ r = .rotationOutOfRange ∨ r = .stimulusSyntax))

/-- R72: an operation run on its own changes none of the ten registers and takes no stimulus word. That `exec` runs it,
and that its result is seen in the model's own field, is the model's choice (log entries 5, 6). -/
def Obligations.InternalOperationsTouchNoRegister : Prop :=
  ∀ (i : Instr) (s t : State), isInternal i = true → exec i s = .next t →
    SameRegs s t ∧ t.stim = s.stim ∧ t.outputs = s.outputs ∧ t.opOut.isSome

/-- The frame of the requests (R122, R27): an edge writes the ten registers only, and a WAIT too. The two fields it leaves alone
are the model's own (log entries 2, 5), and WAIT is one operation by log entry 7. -/
def Obligations.EdgesTouchRegistersOnly : Prop :=
  ∀ (i : Instr) (s t : State), isInternal i = false → exec i s = .next t → t.stim = s.stim ∧ t.opOut = s.opOut

/-- R32 on a run of edges after a reset edge: a valid stage 1 holds the key sampled at the last edge, a valid stage 2
holds one key's results, and every value in a data register came from a DERIVE sampled after the last reset edge. -/
def Obligations.DataComesFromKeysSinceReset : Prop :=
  ∀ (s t u : State) (ws : List EdgeWord), exec .reset s = .next t → runEdges ws t = .next u →
    (u.s1Valid = 1#1 → ∃ k w, ws.getLast? = some w ∧ decode w = .derive k ∧ Stage1Holds u k) ∧
    (u.s2Valid = 1#1 → ∃ k, Stage2Holds u k) ∧
    (∀ v, u.s1P = some v → ∃ k ∈ keysSinceReset [] ws, v = (deriveTaps k).p) ∧
    (∀ v, u.s1C1 = some v → ∃ k ∈ keysSinceReset [] ws, v = (deriveTaps k).c1) ∧
    (∀ v, u.s1K1 = some v → ∃ k ∈ keysSinceReset [] ws, v = (deriveTaps k).k1) ∧
    (∀ v, u.s2P = some v → ∃ k ∈ keysSinceReset [] ws, v = (deriveTaps k).p) ∧
    (∀ v, u.s2C1 = some v → ∃ k ∈ keysSinceReset [] ws, v = (deriveTaps k).c1) ∧
    (∀ v, u.s2C2 = some v → ∃ k ∈ keysSinceReset [] ws, v = (deriveTaps k).c2) ∧
    (∀ v, u.s2K1 = some v → ∃ k ∈ keysSinceReset [] ws, v = (deriveTaps k).k1) ∧
    (∀ v, u.s2K2 = some v → ∃ k ∈ keysSinceReset [] ws, v = (deriveTaps k).k2)

/-- R131, R127, R47: the observation of a stimulus is, in order, one result for each DERIVE whose next edge is no reset edge, seen
after that next edge. -/
def Obligations.ObservationIsTheDeliveries : Prop :=
  ∀ ws : List EdgeWord, startsWithReset ws = true → observation ws = .ok (deliveries 1 ws)

/-- R131: a run of a stimulus never stops, and is complete exactly when its last word is not a DERIVE. -/
def Obligations.RunCompleteIffLastIsNoDerive : Prop :=
  ∀ (ws : List EdgeWord) (w : EdgeWord),
    ∃ u, runEdges (ws ++ [w]) State.reset = .next u ∧ (u.complete = true ↔ isDerive w = false)

/-! ## The stimulus (spec/30_encoding.md R61, spec/70_reset_and_hazards.md R162) -/

/-- R162: a stimulus whose first word is not a RESET is refused. That an empty stimulus is among the refused is an inference (log
entry 13). That any other is loaded onto the launch state, into the model's own field `stim`, with no register changed, is the
model's choice (log entries 2 and 4). -/
def Obligations.StimulusMustStartWithReset : Prop :=
  (∀ ws : List EdgeWord, startsWithReset ws = false →
    launch ws = .refused .noResetYet ∧ observation ws = .error .noResetYet) ∧
  (∀ ws : List EdgeWord, startsWithReset ws = true ↔ ∃ w vs, ws = w :: vs ∧ w.getLsbD 11 = true) ∧
  ∀ ws : List EdgeWord, startsWithReset ws = true → launch ws = .next { State.reset with stim := ws }

/-- The text (R61; blanks as in log entry 11) `DERIVE 0b...` with 1 to 10 binary digits is one edge with the zero-extended key; more digits are `KeyOutOfRange`. -/
def Obligations.BinaryKeyText : Prop :=
  ∀ ds : List Bool, ds ≠ [] →
    (ds.length ≤ 10 → assemble (textLine ['D', 'E', 'R', 'I', 'V', 'E'] ('0' :: 'b' :: binaryDigits ds)) =
      .ok [edgeWord 0#1 1#1 (BitVec.ofNat 10 (binaryValue ds))]) ∧
    (10 < ds.length → assemble (textLine ['D', 'E', 'R', 'I', 'V', 'E'] ('0' :: 'b' :: binaryDigits ds)) =
      .error .keyOutOfRange)

/-- The text (R61; blanks as in log entry 11) `WAIT n` is n words `0x000`; a count of 0 does not match the grammar. -/
def Obligations.WaitText : Prop :=
  ∀ ds : List (Fin 10), ds ≠ [] →
    (1 ≤ decimalValue ds → assemble (textLine ['W', 'A', 'I', 'T'] (decimalDigits ds)) =
      .ok (List.replicate (decimalValue ds) 0x000#12)) ∧
    (decimalValue ds = 0 → assemble (textLine ['W', 'A', 'I', 'T'] (decimalDigits ds)) = .error .stimulusSyntax)

/-- The text (R61; blanks and the case of hex letters as in log entry 11) `DERIVE 0x...` with 1 to 3 hex digits of a value up to
`0x3FF` is one edge with that key; a value over `0x3FF` is `KeyOutOfRange`. That this holds whatever the number of digits, and
that more than 3 digits of a value up to `0x3FF` are `StimulusSyntax`, is the model's reading (log entry 12). -/
def Obligations.HexKeyText : Prop :=
  ∀ ds : List (Bool × Fin 16), ds ≠ [] →
    (hexValue ds ≤ 0x3FF → ds.length ≤ 3 →
      assemble (textLine ['D', 'E', 'R', 'I', 'V', 'E'] ('0' :: 'x' :: hexDigits ds)) =
        .ok [edgeWord 0#1 1#1 (BitVec.ofNat 10 (hexValue ds))]) ∧
    (0x3FF < hexValue ds → assemble (textLine ['D', 'E', 'R', 'I', 'V', 'E'] ('0' :: 'x' :: hexDigits ds)) =
      .error .keyOutOfRange) ∧
    (hexValue ds ≤ 0x3FF → 3 < ds.length →
      assemble (textLine ['D', 'E', 'R', 'I', 'V', 'E'] ('0' :: 'x' :: hexDigits ds)) = .error .stimulusSyntax)

/-- The lines of a program in order (R61; NEWLINE as in log entry 11): one text after another assembles to the words of the first and then of the second. -/
def Obligations.TextsAssembleInOrder : Prop :=
  ∀ (a b : List Char) (ws vs : List EdgeWord), assemble a = .ok ws → assemble b = .ok vs →
    assemble (a ++ b) = .ok (ws ++ vs)
end

