-- ==== Sys2Proof/Laws/Bits.lean ====
section
/-! SUPPORT. Laws of the bit notation, the word fields and the combinational operations, bit by bit. -/

namespace Sys2Proof.Machine

/-- Bit j of a value built from bits. -/
@[simp] theorem getLsbD_ofBits (w : Nat) (f : Nat → Bool) (j : Nat) :
    (ofBits w f).getLsbD j = (decide (j < w) && f j) := by
  induction w with
  | zero => simp [ofBits]
  | succ w ih =>
    rw [ofBits, BitVec.getLsbD_cons, ih]
    by_cases h : j = w
    · simp [h]
    · have : (j < w + 1) = (j < w) := by simp only [eq_iff_iff]; omega
      simp [h, this]

/-- Output bit j of the engine is the source bit its multiplexer selects (R73, R74). -/
theorem getLsbD_perm (wT wS : Nat) (t : Table) (v : BitVec wS) (j : Nat) :
    (perm wT wS t v).getLsbD j = (decide (j < wT) && v.getLsbD (selIndex wS t j)) := by
  simp [perm, bit]

@[simp] theorem rstField_edgeWord (r v : Bit) (k : Word10) : rstField (edgeWord r v k) = r := by
  apply BitVec.eq_of_getLsbD_eq
  intro i hi
  obtain rfl : i = 0 := by omega
  simp only [rstField, slice, edgeWord, BitVec.getLsbD_extractLsb', BitVec.getLsbD_append]
  simp

@[simp] theorem validField_edgeWord (r v : Bit) (k : Word10) : validField (edgeWord r v k) = v := by
  apply BitVec.eq_of_getLsbD_eq
  intro i hi
  obtain rfl : i = 0 := by omega
  simp only [validField, slice, edgeWord, BitVec.getLsbD_extractLsb', BitVec.getLsbD_append]
  simp

@[simp] theorem keyField_edgeWord (r v : Bit) (k : Word10) : keyField (edgeWord r v k) = k := by
  apply BitVec.eq_of_getLsbD_eq
  intro i hi
  simp only [keyField, slice, edgeWord, BitVec.getLsbD_extractLsb', BitVec.getLsbD_append]
  simp [hi]

/-- A word is the word of its three fields (R51). -/
theorem edgeWord_fields (w : EdgeWord) : edgeWord (rstField w) (validField w) (keyField w) = w := by
  apply BitVec.eq_of_getLsbD_eq
  intro i hi
  simp only [edgeWord, rstField, validField, keyField, slice, BitVec.getLsbD_append, BitVec.getLsbD_extractLsb']
  by_cases h1 : i < 10
  · simp [h1]
  · obtain rfl | rfl : i = 10 ∨ i = 11 := by omega
    all_goals simp

/-- A one-bit value is 0 or 1. -/
theorem bit_cases (b : Bit) : b = 0#1 ∨ b = 1#1 := by
  revert b; decide

/-- Rotation by n moves bit j to bit `(j + n) % 5` (R91). -/
theorem getLsbD_rotl5 (x : Half) (n : Nat) (hn : n ≤ 5) (j : Nat) (hj : j < 5) :
    (rotl5 x n).getLsbD ((j + n) % 5) = x.getLsbD j := by
  revert x
  interval_cases n <;> interval_cases j <;> decide

/-- JOIN5 is concatenation (R94, R11). -/
theorem join5_eq_append (l r : Half) : join5 l r = l ++ r := by
  apply BitVec.eq_of_getLsbD_eq
  intro i hi
  simp only [join5, BitVec.getLsbD_or, BitVec.getLsbD_shiftLeft, BitVec.getLsbD_setWidth, BitVec.getLsbD_append]
  by_cases h : i < 5
  · simp [h, hi]
  · have : i - 5 < 10 := by omega
    simp [h, hi, this, BitVec.getLsbD_of_ge r i (by omega)]

/-- The halves of a joined value are the halves it was joined from (R99). -/
@[simp] theorem split5_join5 (l r : Half) : split5 (join5 l r) = { l := l, r := r } := by
  have hl : slice (l ++ r : BitVec (5 + 5)) 5 5 = l := by
    apply BitVec.eq_of_getLsbD_eq
    intro i hi
    simp only [slice, BitVec.getLsbD_extractLsb', BitVec.getLsbD_append]
    simp [hi]
  have hr : slice (l ++ r : BitVec (5 + 5)) 0 5 = r := by
    apply BitVec.eq_of_getLsbD_eq
    intro i hi
    simp only [slice, BitVec.getLsbD_extractLsb', BitVec.getLsbD_append]
    simp [hi]
  rw [join5_eq_append, split5]
  exact congrArg₂ Halves.mk hl hr

end Sys2Proof.Machine
end

