-- ==== Sys2Proof/Laws/State.lean ====
section
/-! SUPPORT. Laws of State: one lemma per field per update. -/

namespace Sys2Proof.Machine

@[simp] theorem State.cleared_s1Valid (s : State) : s.cleared.s1Valid = 0#1 := rfl
@[simp] theorem State.cleared_s1P (s : State) : s.cleared.s1P = none := rfl
@[simp] theorem State.cleared_s1C1 (s : State) : s.cleared.s1C1 = none := rfl
@[simp] theorem State.cleared_s1K1 (s : State) : s.cleared.s1K1 = none := rfl
@[simp] theorem State.cleared_s2Valid (s : State) : s.cleared.s2Valid = 0#1 := rfl
@[simp] theorem State.cleared_s2P (s : State) : s.cleared.s2P = none := rfl
@[simp] theorem State.cleared_s2C1 (s : State) : s.cleared.s2C1 = none := rfl
@[simp] theorem State.cleared_s2C2 (s : State) : s.cleared.s2C2 = none := rfl
@[simp] theorem State.cleared_s2K1 (s : State) : s.cleared.s2K1 = none := rfl
@[simp] theorem State.cleared_s2K2 (s : State) : s.cleared.s2K2 = none := rfl
@[simp] theorem State.cleared_stim (s : State) : s.cleared.stim = s.stim := rfl
@[simp] theorem State.cleared_opOut (s : State) : s.cleared.opOut = s.opOut := rfl

@[simp] theorem State.setOpOut_s1Valid (s : State) (o : OpOut) : (s.setOpOut o).s1Valid = s.s1Valid := rfl
@[simp] theorem State.setOpOut_s1P (s : State) (o : OpOut) : (s.setOpOut o).s1P = s.s1P := rfl
@[simp] theorem State.setOpOut_s1C1 (s : State) (o : OpOut) : (s.setOpOut o).s1C1 = s.s1C1 := rfl
@[simp] theorem State.setOpOut_s1K1 (s : State) (o : OpOut) : (s.setOpOut o).s1K1 = s.s1K1 := rfl
@[simp] theorem State.setOpOut_s2Valid (s : State) (o : OpOut) : (s.setOpOut o).s2Valid = s.s2Valid := rfl
@[simp] theorem State.setOpOut_s2P (s : State) (o : OpOut) : (s.setOpOut o).s2P = s.s2P := rfl
@[simp] theorem State.setOpOut_s2C1 (s : State) (o : OpOut) : (s.setOpOut o).s2C1 = s.s2C1 := rfl
@[simp] theorem State.setOpOut_s2C2 (s : State) (o : OpOut) : (s.setOpOut o).s2C2 = s.s2C2 := rfl
@[simp] theorem State.setOpOut_s2K1 (s : State) (o : OpOut) : (s.setOpOut o).s2K1 = s.s2K1 := rfl
@[simp] theorem State.setOpOut_s2K2 (s : State) (o : OpOut) : (s.setOpOut o).s2K2 = s.s2K2 := rfl
@[simp] theorem State.setOpOut_stim (s : State) (o : OpOut) : (s.setOpOut o).stim = s.stim := rfl
@[simp] theorem State.setOpOut_opOut (s : State) (o : OpOut) : (s.setOpOut o).opOut = some o := rfl

@[simp] theorem State.setStim_s1Valid (s : State) (ws : List EdgeWord) : (s.setStim ws).s1Valid = s.s1Valid := rfl
@[simp] theorem State.setStim_s1P (s : State) (ws : List EdgeWord) : (s.setStim ws).s1P = s.s1P := rfl
@[simp] theorem State.setStim_s1C1 (s : State) (ws : List EdgeWord) : (s.setStim ws).s1C1 = s.s1C1 := rfl
@[simp] theorem State.setStim_s1K1 (s : State) (ws : List EdgeWord) : (s.setStim ws).s1K1 = s.s1K1 := rfl
@[simp] theorem State.setStim_s2Valid (s : State) (ws : List EdgeWord) : (s.setStim ws).s2Valid = s.s2Valid := rfl
@[simp] theorem State.setStim_s2P (s : State) (ws : List EdgeWord) : (s.setStim ws).s2P = s.s2P := rfl
@[simp] theorem State.setStim_s2C1 (s : State) (ws : List EdgeWord) : (s.setStim ws).s2C1 = s.s2C1 := rfl
@[simp] theorem State.setStim_s2C2 (s : State) (ws : List EdgeWord) : (s.setStim ws).s2C2 = s.s2C2 := rfl
@[simp] theorem State.setStim_s2K1 (s : State) (ws : List EdgeWord) : (s.setStim ws).s2K1 = s.s2K1 := rfl
@[simp] theorem State.setStim_s2K2 (s : State) (ws : List EdgeWord) : (s.setStim ws).s2K2 = s.s2K2 := rfl
@[simp] theorem State.setStim_stim (s : State) (ws : List EdgeWord) : (s.setStim ws).stim = ws := rfl
@[simp] theorem State.setStim_opOut (s : State) (ws : List EdgeWord) : (s.setStim ws).opOut = s.opOut := rfl

@[simp] theorem State.withFetchWord_s1Valid (s : State) (nbits w : Nat) :
    (s.withFetchWord nbits w).s1Valid = s.s1Valid := rfl
@[simp] theorem State.withFetchWord_s1P (s : State) (nbits w : Nat) :
    (s.withFetchWord nbits w).s1P = s.s1P := rfl
@[simp] theorem State.withFetchWord_s1C1 (s : State) (nbits w : Nat) :
    (s.withFetchWord nbits w).s1C1 = s.s1C1 := rfl
@[simp] theorem State.withFetchWord_s1K1 (s : State) (nbits w : Nat) :
    (s.withFetchWord nbits w).s1K1 = s.s1K1 := rfl
@[simp] theorem State.withFetchWord_s2Valid (s : State) (nbits w : Nat) :
    (s.withFetchWord nbits w).s2Valid = s.s2Valid := rfl
@[simp] theorem State.withFetchWord_s2P (s : State) (nbits w : Nat) :
    (s.withFetchWord nbits w).s2P = s.s2P := rfl
@[simp] theorem State.withFetchWord_s2C1 (s : State) (nbits w : Nat) :
    (s.withFetchWord nbits w).s2C1 = s.s2C1 := rfl
@[simp] theorem State.withFetchWord_s2C2 (s : State) (nbits w : Nat) :
    (s.withFetchWord nbits w).s2C2 = s.s2C2 := rfl
@[simp] theorem State.withFetchWord_s2K1 (s : State) (nbits w : Nat) :
    (s.withFetchWord nbits w).s2K1 = s.s2K1 := rfl
@[simp] theorem State.withFetchWord_s2K2 (s : State) (nbits w : Nat) :
    (s.withFetchWord nbits w).s2K2 = s.s2K2 := rfl
@[simp] theorem State.withFetchWord_stim (s : State) (nbits w : Nat) :
    (s.withFetchWord nbits w).stim = tableEdgeWord nbits w :: s.stim.tail := rfl
@[simp] theorem State.withFetchWord_opOut (s : State) (nbits w : Nat) :
    (s.withFetchWord nbits w).opOut = s.opOut := rfl

@[simp] theorem State.loadStage1_s1Valid (s : State) (v : Bit) (k : Word10) : (s.loadStage1 v k).s1Valid = v := by
  simp only [State.loadStage1, nextS1Valid]; split <;> rfl
@[simp] theorem State.loadStage1_s1P (s : State) (v : Bit) (k : Word10) :
    (s.loadStage1 v k).s1P = if v = 1#1 then some (stage1 k).p else s.s1P := by
  simp only [State.loadStage1]; split <;> rfl
@[simp] theorem State.loadStage1_s1C1 (s : State) (v : Bit) (k : Word10) :
    (s.loadStage1 v k).s1C1 = if v = 1#1 then some (stage1 k).c1 else s.s1C1 := by
  simp only [State.loadStage1]; split <;> rfl
@[simp] theorem State.loadStage1_s1K1 (s : State) (v : Bit) (k : Word10) :
    (s.loadStage1 v k).s1K1 = if v = 1#1 then some (stage1 k).k1 else s.s1K1 := by
  simp only [State.loadStage1]; split <;> rfl
@[simp] theorem State.loadStage1_s2Valid (s : State) (v : Bit) (k : Word10) : (s.loadStage1 v k).s2Valid = s.s2Valid := by
  simp only [State.loadStage1]; split <;> rfl
@[simp] theorem State.loadStage1_s2P (s : State) (v : Bit) (k : Word10) : (s.loadStage1 v k).s2P = s.s2P := by
  simp only [State.loadStage1]; split <;> rfl
@[simp] theorem State.loadStage1_s2C1 (s : State) (v : Bit) (k : Word10) : (s.loadStage1 v k).s2C1 = s.s2C1 := by
  simp only [State.loadStage1]; split <;> rfl
@[simp] theorem State.loadStage1_s2C2 (s : State) (v : Bit) (k : Word10) : (s.loadStage1 v k).s2C2 = s.s2C2 := by
  simp only [State.loadStage1]; split <;> rfl
@[simp] theorem State.loadStage1_s2K1 (s : State) (v : Bit) (k : Word10) : (s.loadStage1 v k).s2K1 = s.s2K1 := by
  simp only [State.loadStage1]; split <;> rfl
@[simp] theorem State.loadStage1_s2K2 (s : State) (v : Bit) (k : Word10) : (s.loadStage1 v k).s2K2 = s.s2K2 := by
  simp only [State.loadStage1]; split <;> rfl
@[simp] theorem State.loadStage1_stim (s : State) (v : Bit) (k : Word10) : (s.loadStage1 v k).stim = s.stim := by
  simp only [State.loadStage1]; split <;> rfl
@[simp] theorem State.loadStage1_opOut (s : State) (v : Bit) (k : Word10) : (s.loadStage1 v k).opOut = s.opOut := by
  simp only [State.loadStage1]; split <;> rfl

/-- The state after reset is the state a reset edge leaves on the launch state (R31). -/
@[simp] theorem State.cleared_reset : State.reset.cleared = State.reset := rfl

/-- A reset edge on an empty block changes nothing more (R124). -/
@[simp] theorem State.cleared_cleared (s : State) : s.cleared.cleared = s.cleared := rfl

end Sys2Proof.Machine
end

