-- ==== Sys2Proof/Laws/Ops.lean ====
section
/-! SUPPORT. Laws of the shared operations: what each can do, said once. -/

namespace Sys2Proof.Machine

open Sys2Proof.Safety

/-- What stage 2 does when it answers: nothing but its valid bit, or a full load from a specified stage 1 (R122). -/
theorem advanceStage2_ok {s t : State} (h : s.advanceStage2 = .ok t) :
    (s.s1Valid = 0#1 ∧ t = { s with s2Valid := 0#1 }) ∨
    (s.s1Valid = 1#1 ∧ ∃ p c1 k1, s.s1P = some p ∧ s.s1C1 = some c1 ∧ s.s1K1 = some k1 ∧
      t = { s with
        s2Valid := 1#1, s2P := some p, s2C1 := some c1, s2K1 := some k1,
        s2C2 := some (stage2 c1).c2, s2K2 := some (stage2 c1).k2 }) := by
  unfold State.advanceStage2 at h
  rcases bit_cases s.s1Valid with hv | hv
  · refine .inl ⟨hv, ?_⟩
    simpa [hv, nextS2Valid] using h.symm
  · refine .inr ⟨hv, ?_⟩
    rw [if_pos hv] at h
    split at h
    · rename_i p c1 k1 hp hc hk
      refine ⟨p, c1, k1, hp, hc, hk, ?_⟩
      simpa [hv, nextS2Valid] using h.symm
    · cases h

/-- Stage 2 answers exactly when it reads no `unspec` (R122). -/
theorem advanceStage2_ok_iff (s : State) : (∃ t, s.advanceStage2 = .ok t) ↔ Readable s := by
  constructor
  · rintro ⟨t, h⟩ hv
    obtain ⟨h0, -⟩ | ⟨-, p, c1, k1, hp, hc, hk, -⟩ := advanceStage2_ok h
    · rw [h0] at hv; cases hv
    · simp [Stage1Specified, hp, hc, hk]
  · intro hr
    rcases bit_cases s.s1Valid with hv | hv
    · exact ⟨_, by rw [State.advanceStage2, if_neg (by rw [hv]; decide)]⟩
    · obtain ⟨hp, hc, hk⟩ := hr hv
      obtain ⟨p, hp⟩ := Option.isSome_iff_exists.1 hp
      obtain ⟨c1, hc⟩ := Option.isSome_iff_exists.1 hc
      obtain ⟨k1, hk⟩ := Option.isSome_iff_exists.1 hk
      exact ⟨_, by rw [State.advanceStage2, if_pos hv, hp, hc, hk]⟩

/-- The only fault of stage 2 (R153). -/
theorem advanceStage2_error {s : State} {f : Fault} (_ : s.advanceStage2 = .error f) : f = .unspecRead := by
  cases f; rfl

/-- What an edge can answer (R122): a cleared block, or both stages moved on. -/
theorem edge_next {r v : Bit} {k : Word10} {s t : State} (h : edge r v k s = .next t) :
    (r = 1#1 ∧ t = s.cleared) ∨ (r = 0#1 ∧ ∃ u, s.advanceStage2 = .ok u ∧ t = u.loadStage1 v k) := by
  unfold edge at h
  rcases bit_cases r with hr | hr
  · rw [if_neg (by rw [hr]; decide)] at h
    split at h
    · rename_i u hu
      exact .inr ⟨hr, u, hu, by injection h with h; exact h.symm⟩
    · cases h
  · rw [if_pos hr] at h
    exact .inl ⟨hr, by injection h with h; exact h.symm⟩

/-- A reset edge always answers (R124). -/
@[simp] theorem edge_reset (v : Bit) (k : Word10) (s : State) : edge 1#1 v k s = .next s.cleared := by
  simp [edge]

/-- An edge without reset answers with both stages moved on, where stage 2 does. -/
theorem edge_of_advance {s u : State} (h : s.advanceStage2 = .ok u) (v : Bit) (k : Word10) :
    edge 0#1 v k s = .next (u.loadStage1 v k) := by
  simp [edge, h]

/-- An edge never refuses. -/
theorem edge_ne_refused (r v : Bit) (k : Word10) (s : State) (x : Refusal) : edge r v k s ≠ .refused x := by
  unfold edge
  split
  · simp
  · split <;> simp

/-- An engine exists exactly when its table is well-formed, and holds that table (R56). -/
theorem elabTable_ok {t u : Table} {wT wS : Nat} :
    elabTable t wT wS = .ok u ↔ tableWf t wT wS = true ∧ u = t := by
  unfold elabTable
  split <;> rename_i h <;> simp [h, eq_comm]

/-- A rotation exists exactly for an amount in `[0, 5]` (R91). -/
theorem elabRotation_ok {n : Int} {k : Nat} : elabRotation n = .ok k ↔ 0 ≤ n ∧ n ≤ 5 ∧ k = n.toNat := by
  unfold elabRotation
  split <;> rename_i h
  · simp [h, eq_comm]
  · constructor
    · intro h'; cases h'
    · rintro ⟨h0, h5, -⟩; exact absurd ⟨h0, h5⟩ h

/-- WAIT answers where its first IDLE and the WAIT of the others do. -/
theorem idleEdges_succ (n : Nat) {s t : State} (h : execIdle s = .next t) : idleEdges (n + 1) s = idleEdges n t := by
  simp [idleEdges, h]

end Sys2Proof.Machine
end

