-- ==== Sys2Proof/Laws/PerInstr.lean ====
section
/-! SUPPORT. Statements about every operation as syntax. Family `Words`: the edge words an operation is encoded to carry the
fixed bits of its row of spec/opcode_table.json (R53). -/

namespace Sys2Proof.Laws.Words

open Sys2Proof.Machine

/-- The row of R53 an operation's edge words belong to; a WAIT is made of IDLE words (R61). -/
def row : Instr → Row
  | .reset => rowReset
  | .derive _ => rowDerive
  | .idle | .wait _ | .perm _ _ _ _ | .permP10 _ | .permP8 _ | .split5 _ | .rotl5 _ _ | .rotl5By1 _ | .rotl5By2 _
  | .join5 _ _ => rowIdle

/-- Every edge word of the operation has the fixed bits of its row. -/
def Statement (i : Instr) : Prop := ∀ w ∈ encode i, rowMatches (row i) w = true

theorem reset : Statement .reset := by
  intro w hw
  obtain rfl := List.mem_singleton.1 hw
  decide

theorem derive (k : Word10) : Statement (.derive k) := by
  intro w hw
  obtain rfl := List.mem_singleton.1 hw
  refine decide_eq_true (BitVec.eq_of_getLsbD_eq fun i hi => ?_)
  simp only [row, rowDerive, edgeWord, BitVec.getLsbD_and, BitVec.getLsbD_append]
  by_cases h : i < 10
  · have : (0xC00#12).getLsbD i = false := by interval_cases i <;> decide
    have : (0x400#12).getLsbD i = false := by interval_cases i <;> decide
    simp_all
  · obtain rfl | rfl : i = 10 ∨ i = 11 := by omega
    all_goals simp

theorem idle : Statement .idle := by
  intro w hw
  obtain rfl := List.mem_singleton.1 hw
  decide

theorem wait (n : Nat) : Statement (.wait n) := by
  intro w hw
  obtain rfl := (List.mem_replicate.1 hw).2
  exact (by decide : rowMatches rowIdle (edgeWord 0#1 0#1 0#10) = true)

theorem perm (wT wS : Nat) (t : Table) (v : BitVec wS) : Statement (.perm wT wS t v) := fun _ h => nomatch h
theorem permP10 (v : Word10) : Statement (.permP10 v) := fun _ h => nomatch h
theorem permP8 (v : Word10) : Statement (.permP8 v) := fun _ h => nomatch h
theorem split5 (x : Word10) : Statement (.split5 x) := fun _ h => nomatch h
theorem rotl5 (x : Half) (n : Int) : Statement (.rotl5 x n) := fun _ h => nomatch h
theorem rotl5By1 (x : Half) : Statement (.rotl5By1 x) := fun _ h => nomatch h
theorem rotl5By2 (x : Half) : Statement (.rotl5By2 x) := fun _ h => nomatch h
theorem join5 (l r : Half) : Statement (.join5 l r) := fun _ h => nomatch h

end Sys2Proof.Laws.Words
end

