-- ==== Sys2Proof/Tests/Slice0.lean ====
section
/-! SUPPORT. Tests: the checks of WellFormed, words decoded from the spec's encodings, vectors of spec/95_test_vectors.md, and a
witness for every statement that has hypotheses. -/

namespace Sys2Proof.Tests

open Sys2Proof.Machine Sys2Proof.Safety

/-! ## Helpers -/

/-- The next state of an outcome, if it is one. -/
def nextOf : Result → Option State
  | .next s => some s
  | .fault _ => none
  | .refused _ => none

/-- The refusal of an outcome, if it is one. -/
def refusalOf : Result → Option Refusal
  | .refused r => some r
  | .next _ => none
  | .fault _ => none

/-- The fault of an outcome, if it is one. -/
def faultOf : Result → Option Fault
  | .fault f => some f
  | .next _ => none
  | .refused _ => none

/-- What an operation drives on its output. -/
def outOf (i : Instr) : Option OpOut := (nextOf (exec i State.reset)).bind State.opOut

/-- A block with the request of key k in stage 1, as one DERIVE edge after reset leaves it. -/
def inFlight (k : Word10) : State :=
  { State.reset with
    s1Valid := 1#1, s1P := some (stage1 k).p, s1C1 := some (stage1 k).c1, s1K1 := some (stage1 k).k1 }

/-- A state no run reaches: a valid stage 1 with no values. -/
def unreadable : State := { State.reset with s1Valid := 1#1 }

/-- Stage 2 holding another result than none, stage 1 empty. -/
def finished (k : Word10) : State :=
  { State.reset with
    s2Valid := 1#1, s2P := some (deriveTaps k).p, s2C1 := some (deriveTaps k).c1, s2C2 := some (deriveTaps k).c2,
    s2K1 := some (deriveTaps k).k1, s2K2 := some (deriveTaps k).k2 }

theorem readable_reset : Readable State.reset := fun h => nomatch h
theorem readable_inFlight (k : Word10) : Readable (inFlight k) := fun _ => ⟨rfl, rfl, rfl⟩
theorem not_readable_unreadable : ¬ Readable unreadable := fun h => nomatch (h rfl).1
theorem inv_inFlight (k : Word10) : PipeInv (inFlight k) :=
  ⟨fun _ => ⟨k, rfl, rfl, rfl⟩, fun h => (nomatch h), .inr ⟨k, rfl, rfl, rfl⟩, .inl ⟨rfl, rfl, rfl, rfl, rfl⟩⟩

/-! ## WellFormed: an ill-formed term for each check (R56, R61, R91; the tables are those of 95 section 2.3) -/

theorem test_wf_wait_zero : (Instr.wait 0).wf = false := by decide
theorem test_wf_wait_one : (Instr.wait 1).wf = true := by decide
theorem test_wf_table_entry_zero : (Instr.perm 10 10 [0, 5, 2, 7, 4, 10, 1, 9, 8, 6] 0#10).wf = false := by decide
theorem test_wf_table_entry_high : (Instr.perm 10 10 [3, 5, 2, 7, 4, 11, 1, 9, 8, 6] 0#10).wf = false := by decide
theorem test_wf_table_length : (Instr.perm 10 10 [3, 5, 2, 7, 4, 10, 1, 9, 8] 0#10).wf = false := by decide
theorem test_wf_table_no_target : (Instr.perm 0 3 [] 0#3).wf = false := by decide
theorem test_wf_table_no_source : (Instr.perm 1 0 [1] 0#0).wf = false := by decide
theorem test_wf_table_wide_source : (Instr.perm 1 16 [1] 0#16).wf = false := by decide
theorem test_wf_table_widest_source : (Instr.perm 1 15 [15] 0#15).wf = true := by decide
theorem test_wf_table_repeats : (Instr.perm 3 3 [1, 1, 3] 0#3).wf = true := by decide
theorem test_wf_rotation_six : (Instr.rotl5 0#5 6).wf = false := by decide
theorem test_wf_rotation_negative : (Instr.rotl5 0#5 (-1)).wf = false := by decide
theorem test_wf_rotation_five : (Instr.rotl5 0#5 5).wf = true := by decide

/-! ## Decoding: words written out bit by bit, R then V then K (R51, R53; 95 section 4) -/

theorem test_decode_reset : decode 0b100000000000#12 = .reset := by decide
theorem test_decode_reset_wins : decode 0b110100100011#12 = .reset := by decide
theorem test_decode_derive : decode 0b011010000010#12 = .derive 0b1010000010#10 := by decide
theorem test_decode_derive_all_ones : decode 0b011111111111#12 = .derive 0b1111111111#10 := by decide
theorem test_decode_idle : decode 0b000000000000#12 = .idle := by decide
theorem test_decode_idle_key_ignored : decode 0b001111111111#12 = .idle := by decide
/-- R61: `DERIVE k` is `0x400 | k`. -/
theorem test_encode_derive : encode (.derive 0x155#10) = [0x555#12] := by decide
theorem test_encode_wait : encode (.wait 2) = [0x000#12, 0x000#12] := by decide
theorem test_encode_reset : encode .reset = [0x800#12] := by decide
/-- The host's numbering of a row's bits is EIW12's own. -/
theorem test_decodeTableWord : decodeTableWord 16 0x682 = some (.derive 0x282#10) := by decide
/-- R55: the first nibble of P8's word (R57) is its first entry. -/
theorem test_unpack_tblP8 : unpackTbl 8 0x637485A9#32 = tableP8 := by decide
theorem test_pack_tblP10 : (packTbl tableP10).toNat = 0x35274A1986 := by decide
/-- R24: the mask's type and value. -/
theorem test_half_mask : halfMask = 0b11111#5 := by decide
/-- R6: the tables have the widths of the parameters. -/
theorem test_table_widths : tableP10.length = Config.wKey ∧ tableP8.length = Config.wSub ∧ 2 * Config.wHalf = Config.wKey := by
  decide

/-! ## Meanings of the internal operations (95 sections 2 and 3) -/

theorem test_perm_fans_out : outOf (.perm 3 3 [1, 1, 3] 0b101#3) = some (.bits 3 0b111#3) := by decide
theorem test_perm_refused : refusalOf (exec (.perm 10 10 [3, 5, 2, 7, 4, 11, 1, 9, 8, 6] 0#10) State.reset) =
    some .invalidPermutationTable := by decide
theorem test_permP10_golden : outOf (.permP10 0b1010000010#10) = some (.bits 10 0b1000001100#10) := by decide
theorem test_permP10_alternating : outOf (.permP10 0b0101010101#10) = some (.bits 10 0b0010110011#10) := by decide
theorem test_permP8_golden : outOf (.permP8 0b0000111000#10) = some (.bits 8 0b10100100#8) := by decide
theorem test_permP8_drops : outOf (.permP8 0b1111000111#10) = some (.bits 8 0b01011011#8) := by decide
theorem test_split5_golden : outOf (.split5 0b1000001100#10) = some (.halves 0b10000#5 0b01100#5) := by decide
theorem test_split5_left : outOf (.split5 0b1111100000#10) = some (.halves 0b11111#5 0b00000#5) := by decide
theorem test_rotl5_full_circle : outOf (.rotl5 0b01101#5 5) = some (.bits 5 0b01101#5) := by decide
theorem test_rotl5_refused : refusalOf (exec (.rotl5 0b01101#5 (-1)) State.reset) = some .rotationOutOfRange := by decide
theorem test_rotl5By1_wraps : outOf (.rotl5By1 0b10110#5) = some (.bits 5 0b01101#5) := by decide
theorem test_rotl5By1_golden : outOf (.rotl5By1 0b01100#5) = some (.bits 5 0b11000#5) := by decide
theorem test_rotl5By2_wraps : outOf (.rotl5By2 0b10110#5) = some (.bits 5 0b11010#5) := by decide
theorem test_rotl5By2_golden : outOf (.rotl5By2 0b11000#5) = some (.bits 5 0b00011#5) := by decide
theorem test_join5_golden : outOf (.join5 0b00001#5 0b11000#5) = some (.bits 10 0b0000111000#10) := by decide
theorem test_join5_right : outOf (.join5 0b00000#5 0b11111#5) = some (.bits 10 0b0000011111#10) := by decide
/-- 95 section 3.3, the row of key `0x2C5`. -/
theorem test_taps_2C5 : deriveTaps 0x2C5#10 =
    { p := 0b1000111010#10, c1 := 0b0001110101#10, c2 := 0b0110010110#10, k1 := 0x9E#8, k2 := 0xC9#8 } := by decide
/-- R78 item 2: P8 after P10. -/
theorem test_composeTables : composeTables tableP10 tableP8 = [10, 2, 1, 7, 9, 4, 6, 8] := by decide

/-! ## Requests, one edge each (95 section 5) -/

/-- Program P1, edge 2. -/
theorem test_derive_edge : (nextOf (exec (.derive 0x282#10) State.reset)).map (fun t => (t.s1Valid, t.s1C1, t.s1K1, t.s2Valid)) =
    some (1#1, some 0x038#10, some 0xA4#8, 0#1) := by decide
/-- Program P2, edge 4: a DERIVE behind a DERIVE delivers the one before. -/
theorem test_derive_behind_derive : (nextOf (exec (.derive 0x282#10) (inFlight 0x3FF#10))).map (fun t => (t.s1K1, t.delivered)) =
    some (some 0xA4#8, some 0x7FFFFFFFFFFF#47) := by decide
/-- Program P1, edge 3. -/
theorem test_idle_delivers : (nextOf (exec .idle (inFlight 0x282#10))).map (fun t => (t.s1Valid, t.s1C1, t.delivered)) =
    some (0#1, some 0x038#10, some 0x6910E0C0E083#47) := by decide
/-- Program P1, edge 4: the data stay on the outputs with `valid_out` = 0. -/
theorem test_idle_holds : (nextOf (exec .idle (finished 0x282#10))).map (fun t => t.outputs.word) =
    some (some 0x2910E0C0E083#47) := by decide
/-- Program P3, edge 3. -/
theorem test_reset_discards : (nextOf (exec .reset (inFlight 0x155#10))).map (fun t => (t.s1Valid, t.s1C1, t.s2Valid)) =
    some (0#1, none, 0#1) := by decide
/-- Program P4, edge 5: the word `0xD23` is a RESET. -/
theorem test_reset_wins_over_a_key : (nextOf (edgeOf 0xD23#12 (inFlight 0x30F#10))).map (fun t => (t.s1K1, t.s2K1)) =
    some (none, none) := by decide
/-- R61: WAIT 1 is one IDLE; Program P2, edge 5. -/
theorem test_wait_one : (nextOf (exec (.wait 1) (inFlight 0x282#10))).bind State.delivered = some 0x6910E0C0E083#47 := by decide
/-- Program P2, edge 6. -/
theorem test_wait_two : (nextOf (exec (.wait 2) (inFlight 0x282#10))).map (fun t => (t.s2Valid, t.s2K2)) =
    some (0#1, some 0x43#8) := by decide
/-- R122: a valid stage 1 with no value is a fault. -/
theorem test_unspec_read : faultOf (exec .idle unreadable) = some .unspecRead := by decide
/-- A word placed for the next edge is what the next step runs. -/
theorem test_step_runs_placed_word : (nextOf (step (State.reset.withFetchWord 16 0x682))).map (fun t => (t.s1K1, t.stim)) =
    some (some 0xA4#8, []) := by decide
/-- R152. -/
theorem test_step_without_edge : nextOf (step (inFlight 1#10)) = some (inFlight 1#10) := by decide

/-! ## Stimulus text (R61) -/

/-- Program P2's last lines with a comment and a line with no statement. -/
theorem test_text : assemble "RESET ; 0x800\n\nDERIVE 0x3FF\nDERIVE 0b1010000010\n  WAIT 2\n".toList =
    .ok [0x800#12, 0x7FF#12, 0x682#12, 0x000#12, 0x000#12] := by rfl
/-- A short binary key is zero-extended. -/
theorem test_text_short_key : assemble "DERIVE 0b101\n".toList = .ok [0x405#12] := by rfl
theorem test_text_key_too_long : assemble "DERIVE 0b00000000001\n".toList = .error .keyOutOfRange := by rfl
theorem test_text_key_too_big : assemble "DERIVE 0x400\n".toList = .error .keyOutOfRange := by rfl
/-- Comments of log entry 11: an empty one, and one that holds further `;`. -/
theorem test_text_comments : assemble "IDLE;\nRESET ;a ; b\n;;\n".toList = .ok [0x000#12, 0x800#12] := by rfl
/-- Two errors, the order of log entry 14: the unterminated line, then the extra word. -/
theorem test_text_two_errors : assemble "DERIVE 0x400\nIDLE".toList = .error .stimulusSyntax ∧
    assemble "DERIVE 0x400 IDLE\n".toList = .error .stimulusSyntax := ⟨rfl, rfl⟩
theorem test_text_bad_digit : assemble "DERIVE 0b102\n".toList = .error .stimulusSyntax := by rfl
theorem test_text_wait_zero : assemble "WAIT 0\n".toList = .error .stimulusSyntax := by rfl
/-- R162. -/
theorem test_no_reset_yet : refusalOf (launchText "DERIVE 0x001\n".toList) = some .noResetYet := by rfl

/-! ## Witnesses: for each statement with hypotheses, values that meet them all, clause by clause -/

/-- With `readable_reset` and `readable_inFlight`, also for WellFormedOperationsComplete. -/
theorem witness_DecodeEncodeAgree : Instr.reset.wf = true ∧ Instr.idle.wf = true ∧ (Instr.derive 0x3FF#10).wf = true ∧
    (Instr.wait 1).wf = true ∧ (Instr.perm 1 15 [15] 0#15).wf = true := by decide
theorem witness_DontCareBits : (0x800#12).getLsbD 11 = true ∧ (0xFFF#12).getLsbD 11 = true ∧
    (0x000#12).getLsbD 11 = false ∧ (0x000#12).getLsbD 10 = false ∧ (0x3FF#12).getLsbD 11 = false ∧
    (0x3FF#12).getLsbD 10 = false := by decide
/-- For the TBL statements, PermSelectsTablePositions, PermComposition and PermBijectionIff: the first and the last entry, the
widest source, a repeated entry. -/
theorem witness_tables : tableWf tableP10 10 10 = true ∧ 0 < tableP10.length ∧ 9 < tableP10.length ∧
    tableWf [15] 1 15 = true ∧ tableWf [1, 1, 3] 3 3 = true ∧ tableWf tableP8 8 10 = true := by decide
/-- For IllFormedTableIsRefused and GenericOperationsRunOrRefuse: widths and entries at both ends of their ranges. -/
theorem witness_operands_in_range : ([15, 1] : Table).length = 2 ∧ 1 ≤ 2 ∧ 1 ≤ 15 ∧ 15 ≤ 15 ∧
    (∀ e ∈ ([15, 1] : Table), 1 ≤ e ∧ e ≤ 15) ∧ (0 : Int) ≤ 0 ∧ (0 : Int) ≤ 5 ∧ (5 : Int) ≤ 5 := by decide
/-- For the same: each way to be out of range. -/
theorem witness_operands_out_of_range : ([1] : Table).length ≠ 2 ∧ (15 < 16) ∧ (∃ e ∈ ([1, 0] : Table), e = 0) ∧
    (∃ e ∈ ([1, 4] : Table), 3 < e) ∧ (-1 : Int) < 0 ∧ (5 : Int) < 6 := by decide
theorem witness_PermIdentity : 1 ≤ 1 ∧ 1 ≤ 10 := by decide
theorem witness_PermBijectionIff : HoldsEachOnce [1] 1 ∧ ¬ HoldsEachOnce [1, 1, 3] 3 :=
  ⟨fun p h1 h2 => by interval_cases p; rfl, fun h => absurd (h 2 (by decide) (by decide)) (by decide)⟩
theorem witness_PermutationInstances : (0x2FF#10).extractLsb' 0 8 = (0x1FF#10).extractLsb' 0 8 ∧ (0x2FF#10) ≠ 0x1FF#10 := by decide
/-- For the rotations' and the halves' statements: the amounts and bits at both ends; the integers are in
`witness_operands_in_range` and `witness_operands_out_of_range`. -/
theorem witness_Rotl5 : 0 ≤ 5 ∧ 5 ≤ 5 ∧ 0 < 5 ∧ 4 < 5 := by decide
/-- For the statements on one DERIVE and the edges after it. -/
theorem witness_Readable_and_words : Readable State.reset ∧ Readable (inFlight 0x282#10) ∧
    decode 0x000#12 ≠ .reset ∧ decode 0x000#12 = .idle ∧ decode 0x401#12 = .derive 1#10 ∧ decode 0x401#12 ≠ .reset ∧
    decode 0xC00#12 = .reset :=
  ⟨readable_reset, readable_inFlight _, by decide, by decide, by decide, by decide, by decide⟩
/-- For ResetEdgeEmptiesTheBlock and DataComesFromKeysSinceReset: a state RESET answers. -/
theorem witness_ResetEdge : exec .reset (inFlight 0x282#10) = .next State.reset := rfl
/-- For the IDLE and DERIVE edges: an empty stage 1, and a valid one with values. -/
theorem witness_stage1 : State.reset.s1Valid = 0#1 ∧ (inFlight 0x282#10).s1Valid = 1#1 ∧
    (inFlight 0x282#10).s1P = some (stage1 0x282#10).p ∧ (inFlight 0x282#10).s1C1 = some (stage1 0x282#10).c1 ∧
    (inFlight 0x282#10).s1K1 = some (stage1 0x282#10).k1 := ⟨rfl, rfl, rfl, rfl, rfl⟩
theorem witness_ClockedStep : ((0#1 = 1#1) ∨ Readable (inFlight 1#10)) ∧ ((1#1 = 1#1) ∨ Readable unreadable) ∧
    (0#1 = 0#1 ∧ ¬ Readable unreadable) :=
  ⟨.inr (readable_inFlight _), .inl rfl, rfl, not_readable_unreadable⟩
theorem witness_Wait : 1 ≤ 1 ∧ 1 ≤ 2 ∧ Readable (inFlight 0x282#10) := ⟨by decide, by decide, readable_inFlight _⟩
theorem witness_UnspecReadFaults : ¬ Readable unreadable ∧ 1 ≤ 1 := ⟨not_readable_unreadable, by decide⟩
theorem witness_StepRunsTheDecodedWord : ((inFlight 1#10).setStim [0x405#12]).stim = [0x405#12] := rfl
theorem witness_NoEdgeNoChange : (inFlight 1#10).stim = [] := rfl
/-- Two states that agree in stage 1 and differ in stage 2, both answered by an IDLE word and by a DERIVE. -/
theorem witness_RequestsDoNotInterfere : SameStage1 State.reset (finished 0x282#10) ∧
    (nextOf (edgeOf 0x000#12 State.reset)).isSome ∧ (nextOf (edgeOf 0x000#12 (finished 0x282#10))).isSome ∧
    (nextOf (exec (.derive 1#10) State.reset)).isSome ∧ (nextOf (exec (.derive 1#10) (finished 0x282#10))).isSome :=
  ⟨⟨rfl, rfl, rfl, rfl⟩, by decide, by decide, by decide, by decide⟩
/-- Two different words without reset, for the clause on what stage 2 takes. -/
theorem witness_RequestsDoNotInterfere_words : decode 0x000#12 ≠ .reset ∧ decode 0x7FF#12 ≠ .reset ∧
    (nextOf (edgeOf 0x000#12 (inFlight 0x282#10))).map State.s2Valid = some 1#1 ∧
    (nextOf (edgeOf 0x7FF#12 (inFlight 0x282#10))).map State.s2Valid = some 1#1 := by decide
/-- The same with a valid stage 1, whose request both deliver. -/
theorem witness_RequestsDeliver : (nextOf (edgeOf 0x000#12 (inFlight 0x282#10))).map State.s2Valid = some 1#1 ∧
    SameStage1 (inFlight 0x282#10) ((inFlight 0x282#10).setOpOut (.bits 5 0#5)) := ⟨by decide, rfl, rfl, rfl, rfl⟩
theorem witness_ResetDiscards : exec .reset (inFlight 0x155#10) = .next State.reset ∧
    ∀ w ∈ [0x000#12, 0x800#12], isDerive w = false := ⟨rfl, by decide⟩
theorem witness_OutputsShowStage2 : (finished 1#10).s2Valid = ((finished 1#10).setStim [0x000#12]).s2Valid ∧
    SameStage2Data (finished 1#10) ((finished 1#10).setStim [0x000#12]) := ⟨rfl, rfl, rfl, rfl, rfl, rfl⟩
/-- For the invariants: a state with a request in flight whose step delivers it, and operations that answer there. -/
theorem witness_invariants : PipeInv ((inFlight 0x282#10).setStim [0x000#12]) ∧
    (nextOf (step ((inFlight 0x282#10).setStim [0x000#12]))).isSome ∧
    (nextOf (exec (.derive 1#10) (inFlight 0x282#10))).isSome := ⟨inv_inFlight _, by decide, by decide⟩
theorem witness_StopsAreTheListedOnes : faultOf (exec (.wait 2) unreadable) = some .unspecRead ∧
    refusalOf (exec (.rotl5 0#5 6) State.reset) = some .rotationOutOfRange ∧
    refusalOf (exec (.wait 0) State.reset) = some .stimulusSyntax := by decide
theorem witness_frames : isInternal (.rotl5 1#5 5) = true ∧ (nextOf (exec (.rotl5 1#5 5) State.reset)).isSome ∧
    isInternal (.wait 2) = false ∧ (nextOf (exec (.wait 2) (inFlight 1#10))).isSome := by decide
/-- For DataComesFromKeysSinceReset: a run that ends with a valid stage 1 and one that ends with a valid stage 2, every data
register holding a value. -/
theorem witness_runs : (nextOf (runEdges [0x800#12, 0x401#12] State.reset)).map State.s1Valid = some 1#1 ∧
    (nextOf (runEdges [0x401#12, 0x000#12] State.reset)).map (fun t =>
      (t.s2Valid, t.s1P.isSome, t.s1C1.isSome, t.s1K1.isSome, t.outputs.word.isSome)) =
    some (1#1, true, true, true, true) := by decide
theorem witness_stimulus : startsWithReset [0xC00#12, 0x401#12] = true ∧ startsWithReset [0x401#12] = false ∧
    startsWithReset [] = false := by decide
/-- 1, 10 and 11 digits. -/
theorem witness_BinaryKeyText : ([true] ≠ []) ∧ (List.replicate 10 true).length ≤ 10 ∧
    10 < (List.replicate 11 false).length := by decide
theorem witness_WaitText : ([0, 1] : List (Fin 10)) ≠ [] ∧ ([0, 0] : List (Fin 10)) ≠ [] ∧ 1 ≤ decimalValue [0, 1] ∧ decimalValue [0, 0] = 0 := by decide
/-- `3fF`, `400` and `03ff`. -/
theorem witness_HexKeyText : hexValue [(true, 3), (false, 15), (true, 15)] = 0x3FF ∧
    ([(true, 3), (false, 15), (true, 15)] : List (Bool × Fin 16)).length ≤ 3 ∧
    hexValue [(true, 4), (true, 0), (true, 0)] = 0x400 ∧
    hexValue [(true, 0), (true, 3), (false, 15), (false, 15)] ≤ 0x3FF ∧
    3 < ([(true, 0), (true, 3), (false, 15), (false, 15)] : List (Bool × Fin 16)).length := by decide
theorem witness_TextsAssembleInOrder : assemble "RESET\n".toList = .ok [0x800#12] ∧
    assemble "IDLE\n".toList = .ok [0x000#12] := ⟨rfl, rfl⟩

end Sys2Proof.Tests
end

/-! Proofs of the statements about the state (spec/10_state.md R30, R32): the launch state, the pipeline invariant, and where the
values of the data registers come from. -/

namespace Sys2Proof.Proofs

open Sys2Proof.Machine Sys2Proof.Safety

/-! ## What each operation and each run can answer -/

/-- A word asks for a reset, a derivation or nothing (R53). -/
theorem decode_cases (w : EdgeWord) : decode w = .reset ∨ (∃ k, decode w = .derive k) ∨ decode w = .idle := by
  unfold decode
  split
  · exact .inl rfl
  · split
    · exact .inr (.inl ⟨_, rfl⟩)
    · exact .inr (.inr rfl)

/-- RESET empties the block (R124). -/
theorem exec_reset_next {s t : State} (h : exec .reset s = .next t) : t = s.cleared :=
  Host.Outcome.next.inj (h.symm.trans (edge_reset 0#1 0#10 s))

/-- A DERIVE that answers moves stage 2 on, then loads its key (R126). -/
theorem execDerive_next {k : Word10} {s t : State} (h : execDerive k s = .next t) :
    ∃ u, s.advanceStage2 = .ok u ∧ t = u.loadStage1 1#1 k := by
  obtain ⟨hr, -⟩ | ⟨-, hu⟩ := edge_next h
  · cases hr
  · exact hu

/-- An IDLE that answers moves stage 2 on, then takes a valid bit of 0 (R125). -/
theorem execIdle_next {s t : State} (h : execIdle s = .next t) :
    ∃ u, s.advanceStage2 = .ok u ∧ t = u.loadStage1 0#1 0#10 := by
  obtain ⟨hr, -⟩ | ⟨-, hu⟩ := edge_next h
  · cases hr
  · exact hu

/-- What the edge of a sampled word can answer: one of the three requests (R53, R122). -/
theorem edgeOf_next {w : EdgeWord} {s t : State} (h : edgeOf w s = .next t) :
    (decode w = .reset ∧ t = s.cleared) ∨ (∃ k, decode w = .derive k ∧ execDerive k s = .next t) ∨
      (decode w = .idle ∧ execIdle s = .next t) := by
  unfold edgeOf at h
  obtain hw | ⟨k, hw⟩ | hw := decode_cases w <;> rw [hw] at h
  · exact .inl ⟨hw, exec_reset_next h⟩
  · exact .inr (.inl ⟨k, hw, h⟩)
  · exact .inr (.inr ⟨hw, h⟩)

/-- An operation run on its own that answers drives `opOut` and does nothing else (R72). -/
theorem exec_internal_next {i : Instr} {s t : State} (hi : isInternal i = true) (h : exec i s = .next t) :
    ∃ o, t = s.setOpOut o := by
  have driven {o : OpOut} (h : Host.Outcome.next (s.setOpOut o) = (.next t : Result)) : ∃ o, t = s.setOpOut o :=
    ⟨o, (Host.Outcome.next.inj h).symm⟩
  cases i with
  | reset => cases hi
  | derive => cases hi
  | idle => cases hi
  | wait => cases hi
  | perm wT wS tbl v =>
    change execPerm wT wS tbl v s = _ at h
    unfold execPerm at h
    split at h
    · exact driven h
    · cases h
  | rotl5 x n =>
    change execRotl5 x n s = _ at h
    unfold execRotl5 at h
    split at h
    · exact driven h
    · cases h
  | permP10 | permP8 | split5 | rotl5By1 | rotl5By2 | join5 => exact driven h

/-- A WAIT that answers ran IDLE edges (R61). -/
theorem execWait_next {n : Nat} {s t : State} (h : execWait n s = .next t) : idleEdges n s = .next t := by
  unfold execWait at h
  split at h
  · cases h
  · exact h

/-- IDLE edges that answer are one IDLE that answers and the others after it. -/
theorem idleEdges_succ_next {n : Nat} {s t : State} (h : idleEdges (n + 1) s = .next t) :
    ∃ u, execIdle s = .next u ∧ idleEdges n u = .next t := by
  unfold idleEdges at h
  split at h
  · exact ⟨_, ‹_›, h⟩
  all_goals cases h

/-- A run that answers is a first edge that answers and a run after it. -/
theorem runEdges_cons_next {w : EdgeWord} {ws : List EdgeWord} {s u : State} :
    runEdges (w :: ws) s = .next u ↔ ∃ t, edgeOf w s = .next t ∧ runEdges ws t = .next u := by
  rw [runEdges]
  split <;> simp [*]

/-- A run that answers can be cut anywhere. -/
theorem runEdges_append_next {ws vs : List EdgeWord} {s u : State} :
    runEdges (ws ++ vs) s = .next u ↔ ∃ t, runEdges ws s = .next t ∧ runEdges vs t = .next u := by
  induction ws generalizing s with
  | nil => simp [runEdges]
  | cons w ws ih =>
    rw [List.cons_append, runEdges_cons_next]
    simp only [ih, runEdges_cons_next]
    constructor
    · rintro ⟨t, hw, t', hws, hvs⟩
      exact ⟨t', ⟨t, hw, hws⟩, hvs⟩
    · rintro ⟨t', ⟨t, hw, hws⟩, hvs⟩
      exact ⟨t, hw, t', hws, hvs⟩

/-- A step is no edge, or an edge with the first word still to present (R131, R152). -/
theorem step_next {s t : State} (h : step s = .next t) :
    (s.stim = [] ∧ t = s) ∨ ∃ w ws, s.stim = w :: ws ∧ exec (decode w) (s.setStim ws) = .next t := by
  unfold step at h
  split at h
  · exact .inl ⟨‹_›, (Host.Outcome.next.inj h).symm⟩
  · exact .inr ⟨_, _, ‹_›, h⟩

/-! ## The invariant of R32, with the keys the values may come from -/

/-- R32 relative to a set of keys: a register set is empty (not valid, every data register `unspec`) or holds all the values of
one key among them. -/
structure PipelineFrom (keys : Word10 → Prop) (s : State) : Prop where
  stage1 : (s.s1Valid = 0#1 ∧ Stage1Unspec s) ∨ ∃ k, keys k ∧ Stage1Holds s k
  stage2 : (s.s2Valid = 0#1 ∧ Stage2Unspec s) ∨ ∃ k, keys k ∧ Stage2Holds s k

/-- A set that holds values whenever it is valid, and is `unspec` or holds values, is empty or holds values. -/
theorem valid_and_unspec_iff {valid : Bit} {unspec holds : Prop} :
    ((valid = 1#1 → holds) ∧ (unspec ∨ holds)) ↔ (valid = 0#1 ∧ unspec) ∨ holds := by
  rcases bit_cases valid with rfl | rfl
  · simp
  · simp +contextual

/-- The pipeline invariant is R32 with every key allowed. -/
theorem pipeInv_iff (s : State) : PipeInv s ↔ PipelineFrom (fun _ => True) s := by
  have h1 := valid_and_unspec_iff (valid := s.s1Valid) (unspec := Stage1Unspec s) (holds := ∃ k, Stage1Holds s k)
  have h2 := valid_and_unspec_iff (valid := s.s2Valid) (unspec := Stage2Unspec s) (holds := ∃ k, Stage2Holds s k)
  constructor
  · rintro ⟨v1, v2, d1, d2⟩
    exact ⟨by simpa using h1.1 ⟨v1, d1⟩, by simpa using h2.1 ⟨v2, d2⟩⟩
  · rintro ⟨hs1, hs2⟩
    obtain ⟨v1, d1⟩ := h1.2 (by simpa using hs1)
    obtain ⟨v2, d2⟩ := h2.2 (by simpa using hs2)
    exact ⟨v1, v2, d1, d2⟩

section Preservation

variable {keys keys' : Word10 → Prop} {s t : State}

namespace PipelineFrom

/-- A set of keys may grow. -/
theorem mono (hs : PipelineFrom keys s) (hk : ∀ k, keys k → keys' k) : PipelineFrom keys' s where
  stage1 := hs.stage1.imp_right fun ⟨k, hmem, hold⟩ => ⟨k, hk k hmem, hold⟩
  stage2 := hs.stage2.imp_right fun ⟨k, hmem, hold⟩ => ⟨k, hk k hmem, hold⟩

/-- After a reset edge no key is needed (R30). -/
theorem cleared (keys : Word10 → Prop) (s : State) : PipelineFrom keys s.cleared where
  stage1 := .inl ⟨rfl, rfl, rfl, rfl⟩
  stage2 := .inl ⟨rfl, rfl, rfl, rfl, rfl, rfl⟩

theorem setOpOut (hs : PipelineFrom keys s) (o : OpOut) : PipelineFrom keys (s.setOpOut o) :=
  ⟨hs.stage1, hs.stage2⟩

theorem setStim (hs : PipelineFrom keys s) (ws : List EdgeWord) : PipelineFrom keys (s.setStim ws) :=
  ⟨hs.stage1, hs.stage2⟩

/-- A valid set holds values. -/
theorem stage1Holds_of_valid (hs : PipelineFrom keys s) (hv : s.s1Valid = 1#1) : ∃ k, keys k ∧ Stage1Holds s k :=
  hs.stage1.resolve_left fun ⟨h0, _⟩ => by simp [h0] at hv

theorem stage2Holds_of_valid (hs : PipelineFrom keys s) (hv : s.s2Valid = 1#1) : ∃ k, keys k ∧ Stage2Holds s k :=
  hs.stage2.resolve_left fun ⟨h0, _⟩ => by simp [h0] at hv

/-- Stage 2 comes to hold the values of the key whose values stage 1 held, since `DERIVE_TAPS` is STAGE1, then STAGE2 of its C1
(R97, R122). -/
theorem advanceStage2 (hs : PipelineFrom keys s) (h : s.advanceStage2 = .ok t) : PipelineFrom keys t := by
  obtain ⟨-, rfl⟩ | ⟨hv, p, c1, k1, hp, hc, hk1, rfl⟩ := advanceStage2_ok h
  · exact ⟨hs.stage1, hs.stage2.imp_left fun ⟨_, hu⟩ => ⟨rfl, hu⟩⟩
  · obtain ⟨k, hk, hold⟩ := hs.stage1Holds_of_valid hv
    refine ⟨hs.stage1, .inr ⟨k, hk, ?_⟩⟩
    obtain ⟨hp', hc', hk1'⟩ := hold
    obtain rfl := Option.some.inj (hp.symm.trans hp')
    obtain rfl := Option.some.inj (hc.symm.trans hc')
    obtain rfl := Option.some.inj (hk1.symm.trans hk1')
    exact ⟨rfl, rfl, rfl, rfl, rfl⟩

end PipelineFrom

/-- Stage 1 holds STAGE1 of a key it loads (R122). -/
theorem stage1Holds_loadStage1 (s : State) (k : Word10) : Stage1Holds (s.loadStage1 1#1 k) k := by
  simp [Stage1Holds]

namespace PipelineFrom

/-- Stage 1 loads an allowed key, or only clears its valid bit (R122). -/
theorem loadStage1 (hs : PipelineFrom keys s) {v : Bit} {k : Word10} (hk : v = 1#1 → keys k) :
    PipelineFrom keys (s.loadStage1 v k) where
  stage1 := by
    rcases bit_cases v with rfl | rfl
    · exact hs.stage1.imp (fun ⟨_, hu⟩ => ⟨rfl, hu⟩) id
    · exact .inr ⟨k, hk rfl, stage1Holds_loadStage1 s k⟩
  stage2 := by simpa [Stage2Unspec, Stage2Holds] using hs.stage2

/-- DERIVE keeps the invariant when its key is allowed. -/
theorem execDerive (hs : PipelineFrom keys s) {k : Word10} (hk : keys k) (h : Machine.execDerive k s = .next t) :
    PipelineFrom keys t := by
  obtain ⟨u, hu, rfl⟩ := execDerive_next h
  exact (hs.advanceStage2 hu).loadStage1 fun _ => hk

theorem execIdle (hs : PipelineFrom keys s) (h : Machine.execIdle s = .next t) : PipelineFrom keys t := by
  obtain ⟨u, hu, rfl⟩ := execIdle_next h
  exact (hs.advanceStage2 hu).loadStage1 fun h0 => absurd h0 (by decide)

theorem idleEdges {n : Nat} (hs : PipelineFrom keys s) (h : Machine.idleEdges n s = .next t) : PipelineFrom keys t := by
  induction n generalizing s with
  | zero => exact Host.Outcome.next.inj h ▸ hs
  | succ n ih =>
    obtain ⟨u, hu, h⟩ := idleEdges_succ_next h
    exact ih (hs.execIdle hu) h

/-- Every operation keeps the invariant when the key of a DERIVE is allowed. -/
theorem exec {i : Instr} (hs : PipelineFrom keys s) (hk : ∀ k, i = .derive k → keys k)
    (h : Machine.exec i s = .next t) : PipelineFrom keys t := by
  cases i with
  | reset => exact exec_reset_next h ▸ cleared keys s
  | derive k => exact hs.execDerive (hk k rfl) h
  | idle => exact hs.execIdle h
  | wait n => exact hs.idleEdges (execWait_next h)
  | perm | permP10 | permP8 | split5 | rotl5 | rotl5By1 | rotl5By2 | join5 =>
    obtain ⟨o, rfl⟩ := exec_internal_next rfl h
    exact hs.setOpOut o

end PipelineFrom

end Preservation

/-- Settles O41: the invariant with every key allowed. -/
theorem operationsKeepPipelineInvariant : Obligations.OperationsKeepPipelineInvariant := by
  intro i s t hs h
  rw [pipeInv_iff] at hs ⊢
  exact hs.exec (fun _ _ => trivial) h

/-- Settles O40: a step is no edge, or an operation after its word is taken. -/
theorem stepKeepsPipelineInvariant : Obligations.StepKeepsPipelineInvariant := by
  intro s t hs h
  obtain ⟨-, rfl⟩ | ⟨w, ws, -, h⟩ := step_next h
  · exact hs
  · have hset : PipeInv (s.setStim ws) := (pipeInv_iff _).2 (((pipeInv_iff s).1 hs).setStim ws)
    exact operationsKeepPipelineInvariant _ _ _ hset h

/-! ## The launch state -/

/-- Settles O38. -/
theorem resetState : Obligations.ResetState :=
  ⟨rfl, rfl, ⟨rfl, rfl, rfl⟩, ⟨rfl, rfl, rfl, rfl, rfl⟩⟩

/-- Settles O39: the launch state is what a reset edge leaves. -/
theorem pipelineInvariantAtReset : Obligations.PipelineInvariantAtReset :=
  (pipeInv_iff _).2 (PipelineFrom.cleared _ State.reset)

/-! ## Keys since the last reset edge -/

section KeysSinceReset

variable {keys : Word10 → Prop} {s t : State}

/-- The keys since the last reset edge are kept word by word. -/
theorem keysSinceReset_cons (acc : List Word10) (w : EdgeWord) (ws : List EdgeWord) :
    keysSinceReset acc (w :: ws) = keysSinceReset (keysSinceReset acc [w]) ws := by
  simp only [keysSinceReset]
  split <;> rfl

/-- After an edge every value comes from a key sampled since the last reset edge, if before it every value did. -/
theorem PipelineFrom.edgeOf {acc : List Word10} {w : EdgeWord} (hs : PipelineFrom (· ∈ acc) s)
    (h : Machine.edgeOf w s = .next t) : PipelineFrom (· ∈ keysSinceReset acc [w]) t := by
  obtain ⟨hw, rfl⟩ | ⟨k, hw, h⟩ | ⟨hw, h⟩ := edgeOf_next h <;> simp only [keysSinceReset, hw]
  · exact cleared _ s
  · exact (hs.mono fun _ => List.mem_append_left [k]).execDerive (by simp) h
  · exact hs.execIdle h

/-- The same along a run. -/
theorem PipelineFrom.runEdges {acc : List Word10} {ws : List EdgeWord} (hs : PipelineFrom (· ∈ acc) s)
    (h : Machine.runEdges ws s = .next t) : PipelineFrom (· ∈ keysSinceReset acc ws) t := by
  induction ws generalizing s acc with
  | nil => exact Host.Outcome.next.inj h ▸ hs
  | cons w ws ih =>
    obtain ⟨u, hu, h⟩ := runEdges_cons_next.1 h
    rw [keysSinceReset_cons]
    exact ih (hs.edgeOf hu) h

/-- Only a DERIVE leaves stage 1 valid, and it leaves STAGE1 of its key there (R122, R126). -/
theorem derive_of_s1Valid_edgeOf {w : EdgeWord} (h : edgeOf w s = .next t) (hv : t.s1Valid = 1#1) :
    ∃ k, decode w = .derive k ∧ Stage1Holds t k := by
  obtain ⟨-, rfl⟩ | ⟨k, hw, h⟩ | ⟨-, h⟩ := edgeOf_next h
  · simp at hv
  · obtain ⟨u, -, rfl⟩ := execDerive_next h
    exact ⟨k, hw, stage1Holds_loadStage1 u k⟩
  · obtain ⟨u, -, rfl⟩ := execIdle_next h
    simp at hv

/-- A run that ends with a valid stage 1 from a state without one ended with the DERIVE whose values it holds (R32 item 1). -/
theorem derive_last_of_s1Valid_runEdges {ws : List EdgeWord} (hs : s.s1Valid = 0#1) (h : runEdges ws s = .next t)
    (hv : t.s1Valid = 1#1) : ∃ k w, ws.getLast? = some w ∧ decode w = .derive k ∧ Stage1Holds t k := by
  obtain rfl | ⟨vs, w, rfl⟩ := ws.eq_nil_or_concat'
  · obtain rfl := Host.Outcome.next.inj h
    rw [hs] at hv
    cases hv
  · obtain ⟨u, -, hlast⟩ := runEdges_append_next.1 h
    obtain ⟨t, hw, hnil⟩ := runEdges_cons_next.1 hlast
    obtain rfl := Host.Outcome.next.inj hnil
    obtain ⟨k, hk, hold⟩ := derive_of_s1Valid_edgeOf hw hv
    exact ⟨k, w, by simp, hk, hold⟩

/-- A value in a register of a set that is empty or holds the values of an allowed key is that register's value for an allowed
key. -/
theorem value_of_allowed_key {α : Type} {r : Option α} {f : Word10 → α} {empty unspec : Prop} {holds : Word10 → Prop}
    (hset : (empty ∧ unspec) ∨ ∃ k, keys k ∧ holds k) (hnone : unspec → r = none) (hsome : ∀ k, holds k → r = some (f k))
    (v : α) (hv : r = some v) : ∃ k, keys k ∧ v = f k := by
  obtain ⟨-, hu⟩ | ⟨k, hk, hold⟩ := hset
  · simp [hnone hu] at hv
  · exact ⟨k, hk, Option.some.inj (hv.symm.trans (hsome k hold))⟩

end KeysSinceReset

/-- Settles O47: the invariant with the keys sampled since the last reset edge, along the run. -/
theorem dataComesFromKeysSinceReset : Obligations.DataComesFromKeysSinceReset := by
  intro s t u ws hreset hrun
  obtain rfl := exec_reset_next hreset
  have hu : PipelineFrom (· ∈ keysSinceReset [] ws) u := (PipelineFrom.cleared (· ∈ []) s).runEdges hrun
  have hvalid2 (hv : u.s2Valid = 1#1) : ∃ k, Stage2Holds u k := (hu.stage2Holds_of_valid hv).imp fun _ hk => hk.2
  obtain ⟨h1, h2⟩ := hu
  exact ⟨derive_last_of_s1Valid_runEdges rfl hrun, hvalid2,
    value_of_allowed_key h1 (fun ⟨hp, _, _⟩ => hp) fun _ ⟨hp, _, _⟩ => hp,
    value_of_allowed_key h1 (fun ⟨_, hc1, _⟩ => hc1) fun _ ⟨_, hc1, _⟩ => hc1,
    value_of_allowed_key h1 (fun ⟨_, _, hk1⟩ => hk1) fun _ ⟨_, _, hk1⟩ => hk1,
    value_of_allowed_key h2 (fun ⟨hp, _⟩ => hp) fun _ ⟨hp, _⟩ => hp,
    value_of_allowed_key h2 (fun ⟨_, hc1, _⟩ => hc1) fun _ ⟨_, hc1, _⟩ => hc1,
    value_of_allowed_key h2 (fun ⟨_, _, hc2, _⟩ => hc2) fun _ ⟨_, _, hc2, _⟩ => hc2,
    value_of_allowed_key h2 (fun ⟨_, _, _, hk1, _⟩ => hk1) fun _ ⟨_, _, _, hk1, _⟩ => hk1,
    value_of_allowed_key h2 (fun ⟨_, _, _, _, hk2⟩ => hk2) fun _ ⟨_, _, _, _, hk2⟩ => hk2⟩

end Sys2Proof.Proofs

/-! Proofs of the statements about encodings (spec/30_encoding.md): edge words and their decoder, TBL words, OUT47 and the
stimulus text, and the two statements that say what an operation is made of (R58, R61). -/

namespace Sys2Proof.Proofs

open Sys2Proof.Machine Sys2Proof.Safety

/-! ## Edge words by their fields (R51) -/

theorem bit_eq_one_iff (b : Bit) : b = 1#1 ↔ b.getLsbD 0 = true := by
  revert b; decide

theorem bit_eq_zero_iff (b : Bit) : b = 0#1 ↔ b.getLsbD 0 = false := by
  revert b; decide

/-- Field `R` is bit 11. -/
theorem rstField_eq_one_iff (w : EdgeWord) : rstField w = 1#1 ↔ w.getLsbD 11 = true := by
  simp [rstField, slice, bit_eq_one_iff]

theorem rstField_eq_zero_iff (w : EdgeWord) : rstField w = 0#1 ↔ w.getLsbD 11 = false := by
  simp [rstField, slice, bit_eq_zero_iff]

/-- Field `V` is bit 10. -/
theorem validField_eq_one_iff (w : EdgeWord) : validField w = 1#1 ↔ w.getLsbD 10 = true := by
  simp [validField, slice, bit_eq_one_iff]

theorem validField_eq_zero_iff (w : EdgeWord) : validField w = 0#1 ↔ w.getLsbD 10 = false := by
  simp [validField, slice, bit_eq_zero_iff]

theorem edgeWord_inj {r r' v v' : Bit} {k k' : Word10} :
    edgeWord r v k = edgeWord r' v' k' ↔ r = r' ∧ v = v' ∧ k = k' := by
  constructor
  · intro h
    exact ⟨by simpa using congrArg rstField h, by simpa using congrArg validField h, by simpa using congrArg keyField h⟩
  · rintro ⟨rfl, rfl, rfl⟩
    rfl

theorem edgeWord_and (r r' v v' : Bit) (k k' : Word10) :
    edgeWord r v k &&& edgeWord r' v' k' = edgeWord (r &&& r') (v &&& v') (k &&& k') := by
  rw [edgeWord, edgeWord, BitVec.and_append, BitVec.and_append, edgeWord]

/-- A row given by its fields matches a word when each field agrees on the bits of its mask. -/
theorem rowMatches_iff {r v mr mv : Bit} {k mk : Word10} {w : EdgeWord} :
    rowMatches { pattern := edgeWord r v k, mask := edgeWord mr mv mk } w = true ↔
      rstField w &&& mr = r ∧ validField w &&& mv = v ∧ keyField w &&& mk = k := by
  rw [rowMatches, decide_eq_true_iff, ← edgeWord_inj, ← edgeWord_and, edgeWord_fields]

@[simp] theorem bit_and_one (b : Bit) : b &&& 1#1 = b := by
  revert b; decide

theorem rowMatches_rowReset_iff (w : EdgeWord) : rowMatches rowReset w = true ↔ rstField w = 1#1 := by
  have hrow : rowReset = { pattern := edgeWord 1#1 0#1 0#10, mask := edgeWord 1#1 0#1 0#10 } := by decide
  rw [hrow, rowMatches_iff]
  simp

theorem rowMatches_rowDerive_iff (w : EdgeWord) :
    rowMatches rowDerive w = true ↔ rstField w = 0#1 ∧ validField w = 1#1 := by
  have hrow : rowDerive = { pattern := edgeWord 0#1 1#1 0#10, mask := edgeWord 1#1 1#1 0#10 } := by decide
  rw [hrow, rowMatches_iff]
  simp

theorem rowMatches_rowIdle_iff (w : EdgeWord) :
    rowMatches rowIdle w = true ↔ rstField w = 0#1 ∧ validField w = 0#1 := by
  have hrow : rowIdle = { pattern := edgeWord 0#1 0#1 0#10, mask := edgeWord 1#1 1#1 0#10 } := by decide
  rw [hrow, rowMatches_iff]
  simp

/-! ## The decoder (R53) -/

@[simp] theorem decode_edgeWord (r v : Bit) (k : Word10) :
    decode (edgeWord r v k) = if r = 1#1 then .reset else if v = 1#1 then .derive k else .idle := by
  simp [decode]

/-- The three answers of the decoder, each with the fields that lead to it. -/
theorem decode_cases_fields (w : EdgeWord) :
    (rstField w = 1#1 ∧ decode w = .reset) ∨
    (rstField w = 0#1 ∧ validField w = 1#1 ∧ decode w = .derive (keyField w)) ∨
    (rstField w = 0#1 ∧ validField w = 0#1 ∧ decode w = .idle) := by
  rcases bit_cases (rstField w) with hr | hr
  · rcases bit_cases (validField w) with hv | hv
    · exact .inr (.inr ⟨hr, hv, by simp [decode, hr, hv]⟩)
    · exact .inr (.inl ⟨hr, hv, by simp [decode, hr, hv]⟩)
  · exact .inl ⟨hr, by simp [decode, hr]⟩

/-- The decoder by the bits of the word (R53). -/
theorem decode_eq_of_bits (w : EdgeWord) :
    decode w = if w.getLsbD 11 then .reset else if w.getLsbD 10 then .derive (w.extractLsb' 0 10) else .idle := by
  simp only [decode, rstField_eq_one_iff, validField_eq_one_iff, keyField, slice]

/-- The encoder by the bits of the word it encodes again (R53, R61). -/
theorem encode_decode (w : EdgeWord) :
    encode (decode w) = [if w.getLsbD 11 then 0x800#12 else if w.getLsbD 10 then w else 0x000#12] := by
  simp only [← rstField_eq_one_iff, ← validField_eq_one_iff]
  obtain ⟨hr, hd⟩ | ⟨hr, hv, hd⟩ | ⟨hr, hv, hd⟩ := decode_cases_fields w <;> rw [hd]
  · simp [encode, hr, edgeWord]
  · have hw : edgeWord 0#1 1#1 (keyField w) = w := by rw [← hr, ← hv, edgeWord_fields]
    simp [encode, hr, hv, hw]
  · simp [encode, hr, hv, edgeWord]

/-- Settles O3: the decoder reads back the fields the encoder wrote. -/
theorem decodeEncodeAgree : Obligations.DecodeEncodeAgree := by
  intro i _
  cases i with
  | reset => exact ⟨_, rfl, by simp⟩
  | derive k => exact ⟨_, rfl, by simp⟩
  | idle => exact ⟨_, rfl, by simp⟩
  | wait n =>
    refine ⟨List.length_replicate, fun w hw => ?_⟩
    obtain rfl := List.eq_of_mem_replicate hw
    simp
  | perm | permP10 | permP8 | split5 | rotl5 | rotl5By1 | rotl5By2 | join5 => rfl

/-- Settles O2: the rows and the decoder look at the same two fields. -/
theorem decodeFollowsItsRows : Obligations.DecodeFollowsItsRows := by
  intro w
  refine ⟨decode_eq_of_bits w, ?_⟩
  change _ ∧ (_ ↔ decode w = .derive (keyField w)) ∧ _
  rw [rowMatches_rowReset_iff, rowMatches_rowDerive_iff, rowMatches_rowIdle_iff]
  obtain ⟨hr, hd⟩ | ⟨hr, hv, hd⟩ | ⟨hr, hv, hd⟩ := decode_cases_fields w
  all_goals
    simp [edgeRows, rowMatches_rowReset_iff, rowMatches_rowDerive_iff, rowMatches_rowIdle_iff, *]

/-- Settles O4. -/
theorem encodeDecodeClearsDontCares : Obligations.EncodeDecodeClearsDontCares :=
  encode_decode

/-- Settles O1. -/
theorem specWordsDecode : Obligations.SpecWordsDecode := by
  unfold Obligations.SpecWordsDecode
  decide

/-- No word is illegal: each asks for one edge (R54). -/
theorem edgeOf_ne_refused (w : EdgeWord) (s : State) (r : Refusal) : edgeOf w s ≠ .refused r := by
  unfold edgeOf
  obtain hw | ⟨k, hw⟩ | hw := decode_cases w <;> rw [hw]
  · exact edge_ne_refused 1#1 0#1 0#10 s r
  · exact edge_ne_refused 0#1 1#1 k s r
  · exact edge_ne_refused 0#1 0#1 0#10 s r

/-- Settles O5: two words of the RESET row, or of the IDLE row, decode to the same operation. -/
theorem dontCareBitsHaveNoEffect : Obligations.DontCareBitsHaveNoEffect := by
  intro w w' s
  simp only [← rstField_eq_one_iff, ← rstField_eq_zero_iff, ← validField_eq_zero_iff]
  refine ⟨fun hr hr' => ?_, fun hr hv hr' hv' => ?_, edgeOf_ne_refused w s⟩
  · simp [edgeOf, decode, hr, hr']
  · simp [edgeOf, decode, hr, hv, hr', hv']

/-! ## TBL words (R55, R56) -/

section Tables

variable {t : Table} {wT wS : Nat}

/-- The well-formedness check, condition by condition (R56). -/
theorem tableWf_iff :
    tableWf t wT wS = true ↔ t.length = wT ∧ 1 ≤ wT ∧ 1 ≤ wS ∧ wS ≤ 15 ∧ ∀ e ∈ t, 1 ≤ e ∧ e ≤ wS := by
  simp [tableWf, and_assoc]

/-- An entry of a well-formed table fits in a nibble (R56). -/
theorem lt_sixteen_of_tableWf (h : tableWf t wT wS = true) : ∀ e ∈ t, e < 16 := by
  obtain ⟨-, -, -, hwS, hentries⟩ := tableWf_iff.1 h
  intro e he
  have := (hentries e he).2
  omega

/-- The digits appended to a number are what division by their weight drops. -/
theorem nibbles_div (acc : Nat) (ht : ∀ e ∈ t, e < 16) : nibbles acc t / 16 ^ t.length = acc := by
  induction t generalizing acc with
  | nil => simp [nibbles]
  | cons e t ih =>
    obtain ⟨he, ht⟩ := List.forall_mem_cons.1 ht
    rw [nibbles, List.length_cons, pow_succ, ← Nat.div_div_eq_div_mul, ih _ ht]
    omega

/-- Entry i is the digit of weight `16 ^ (length - 1 - i)`. -/
theorem nibbles_digit (acc : Nat) (ht : ∀ e ∈ t, e < 16) (i : Nat) (hi : i < t.length) :
    nibbles acc t / 16 ^ (t.length - 1 - i) % 16 = t[i] := by
  induction t generalizing acc i with
  | nil => cases hi
  | cons e t ih =>
    obtain ⟨he, ht⟩ := List.forall_mem_cons.1 ht
    cases i with
    | zero =>
      have hdiv : nibbles (16 * acc + e) t / 16 ^ t.length = 16 * acc + e := nibbles_div _ ht
      simp only [nibbles, List.length_cons, Nat.add_sub_cancel, Nat.sub_zero, hdiv, List.getElem_cons_zero]
      omega
    | succ i =>
      have hlen : (e :: t).length - 1 - (i + 1) = t.length - 1 - i := by simp; omega
      rw [nibbles, hlen, List.getElem_cons_succ]
      exact ih _ ht i (Nat.lt_of_succ_lt_succ hi)

/-- Entries that are the base-16 digits of `x` write the low digits of `x` behind those already read. -/
theorem nibbles_of_digits (acc x : Nat)
    (h : ∀ (i : Nat) (hi : i < t.length), t[i] = x / 16 ^ (t.length - 1 - i) % 16) :
    nibbles acc t = 16 ^ t.length * acc + x % 16 ^ t.length := by
  induction t generalizing acc with
  | nil => simp [nibbles, Nat.mod_one]
  | cons e t ih =>
    have he : e = x / 16 ^ t.length % 16 := h 0 (Nat.zero_lt_succ _)
    have ht : ∀ (i : Nat) (hi : i < t.length), t[i] = x / 16 ^ (t.length - 1 - i) % 16 := by
      intro i hi
      have hlen : (e :: t).length - 1 - (i + 1) = t.length - 1 - i := by simp; omega
      rw [← hlen]
      exact h (i + 1) (Nat.succ_lt_succ hi)
    rw [nibbles, ih _ ht, List.length_cons, Nat.mod_pow_succ, ← he]
    ring

theorem two_pow_four_mul (n : Nat) : 2 ^ (4 * n) = 16 ^ n :=
  pow_mul 2 4 n

/-- A TBL word is the number its table writes, which fits (R55). -/
theorem toNat_packTbl (ht : ∀ e ∈ t, e < 16) : (packTbl t).toNat = nibbles 0 t := by
  have hlt : nibbles 0 t < 16 ^ t.length := by
    rw [← Nat.div_eq_zero_iff_lt (by positivity)]
    exact nibbles_div 0 ht
  rw [packTbl, BitVec.toNat_ofNat, two_pow_four_mul, Nat.mod_eq_of_lt hlt]

/-- Nibble i of a word, counted from its least significant one. -/
theorem toNat_nibble {w : Nat} (v : BitVec w) (i : Nat) :
    (v.extractLsb' (4 * i) 4).toNat = v.toNat / 16 ^ i % 16 := by
  rw [BitVec.extractLsb'_toNat, Nat.shiftRight_eq_div_pow, two_pow_four_mul]

/-- Entry i of a table stands in nibble `length - 1 - i` of its TBL word (R55). -/
theorem packTbl_nibble (ht : ∀ e ∈ t, e < 16) (i : Nat) (hi : i < t.length) :
    ((packTbl t).extractLsb' (4 * (t.length - 1 - i)) 4).toNat = t[i] := by
  rw [toNat_nibble, toNat_packTbl ht, nibbles_digit 0 ht i hi]

@[simp] theorem length_unpackTbl (n : Nat) (w : BitVec (4 * n)) : (unpackTbl n w).length = n := by
  simp [unpackTbl]

/-- Entry i read from a TBL word is its nibble `n - 1 - i` (R55). -/
theorem getElem_unpackTbl (n : Nat) (w : BitVec (4 * n)) (i : Nat) (hi : i < (unpackTbl n w).length) :
    (unpackTbl n w)[i] = (w.extractLsb' (4 * (n - 1 - i)) 4).toNat := by
  simp [unpackTbl, slice]

theorem unpackTbl_packTbl (ht : ∀ e ∈ t, e < 16) : unpackTbl t.length (packTbl t) = t := by
  refine List.ext_getElem (length_unpackTbl _ _) fun i _ hi => ?_
  rw [getElem_unpackTbl, packTbl_nibble ht i hi]

theorem toNat_packTbl_unpackTbl (n : Nat) (w : BitVec (4 * n)) : (packTbl (unpackTbl n w)).toNat = w.toNat := by
  have hlt : ∀ e ∈ unpackTbl n w, e < 16 := by
    intro e he
    obtain ⟨i, hi, rfl⟩ := List.mem_iff_getElem.1 he
    rw [getElem_unpackTbl]
    exact BitVec.isLt _
  have hdigits : ∀ (i : Nat) (hi : i < (unpackTbl n w).length),
      (unpackTbl n w)[i] = w.toNat / 16 ^ ((unpackTbl n w).length - 1 - i) % 16 := by
    intro i hi
    rw [getElem_unpackTbl, toNat_nibble, length_unpackTbl]
  have hw : w.toNat < 16 ^ n := two_pow_four_mul n ▸ w.isLt
  rw [toNat_packTbl hlt, nibbles_of_digits 0 w.toNat hdigits, length_unpackTbl, Nat.mod_eq_of_lt hw, Nat.mul_zero,
    Nat.zero_add]

/-- An engine is refused exactly when the check fails, and as InvalidPermutationTable (R56, R142). -/
theorem elabTable_error_iff {r : Refusal} :
    elabTable t wT wS = .error r ↔ tableWf t wT wS = false ∧ r = .invalidPermutationTable := by
  unfold elabTable
  split <;> rename_i h <;> simp [h, eq_comm]

end Tables

/-- Settles O7. -/
theorem tblHoldsEachEntryInItsNibble : Obligations.TblHoldsEachEntryInItsNibble := by
  intro t wT wS h i hi
  have hpos : 4 * (t.length - i) - 4 = 4 * (t.length - 1 - i) := by omega
  rw [hpos, packTbl_nibble (lt_sixteen_of_tableWf h) i hi]

/-- Settles O8. -/
theorem tblRoundTrips : Obligations.TblRoundTrips :=
  ⟨fun _ _ _ h => unpackTbl_packTbl (lt_sixteen_of_tableWf h), toNat_packTbl_unpackTbl⟩

/-- Settles O10: what is refused is what one of the conditions of R56 fails for. -/
theorem illFormedTableIsRefused : Obligations.IllFormedTableIsRefused := by
  intro wT wS t
  refine ⟨?_, fun h => elabTable_ok.2 ⟨tableWf_iff.2 h, rfl⟩⟩
  rw [elabTable_error_iff, ← Bool.not_eq_true, tableWf_iff]
  simp only [and_true, not_and_or, not_forall, not_le, Nat.lt_one_iff, exists_prop, ne_eq]

/-- Settles O6. -/
theorem tblWordsOfThisHardware : Obligations.TblWordsOfThisHardware := by
  have hP10 : packTbl tableP10 = 0x35274A1986#40 := rfl
  have hP8 : packTbl tableP8 = 0x637485A9#32 := rfl
  refine ⟨hP10, hP8, by decide, by decide, fun v => ?_, fun v => ?_⟩
  · rw [tblOf, hP10]
  · rw [tblOf, hP8]

/-! ## The stages made of the internal operations (R58) -/

theorem exec_split5_join5 (l r : Half) (s : State) :
    exec (.split5 (join5 l r)) s = .next (s.setOpOut (.halves l r)) := by
  simp [exec, execSplit5]

/-- STAGE2 rotates the halves that were joined to C1 (R96, R99). -/
theorem stage2_join5 (l r : Half) :
    stage2 (join5 l r) =
      { c2 := join5 (rotl5By2 l) (rotl5By2 r), k2 := permP8 (join5 (rotl5By2 l) (rotl5By2 r)) } := by
  simp [stage2, roundTwo, uP8B]

/-- DERIVE_TAPS is STAGE1, then STAGE2 of its C1 (R97). -/
theorem deriveTaps_of_stages {key p c1 c2 : Word10} {k1 k2 : Subkey}
    (h1 : stage1 key = { p := p, c1 := c1, k1 := k1 }) (h2 : stage2 c1 = { c2 := c2, k2 := k2 }) :
    deriveTaps key = { k1 := k1, k2 := k2, p := p, c1 := c1, c2 := c2 } := by
  simp [deriveTaps, h1, h2]

/-- Settles O21: each operation drives what the stage computes at that place; only what follows the first JOIN5 needs a law,
that the second SPLIT5 gives back the halves just joined. -/
theorem internalOperationsMakeTheStages : Obligations.InternalOperationsMakeTheStages := by
  intro key s
  obtain ⟨l0, r0, hsplit⟩ : ∃ l0 r0, split5 (permP10 key) = { l := l0, r := r0 } := ⟨_, _, rfl⟩
  have hstage1 : stage1 key =
      { p := permP10 key, c1 := join5 (rotl5By1 l0) (rotl5By1 r0), k1 := permP8 (join5 (rotl5By1 l0) (rotl5By1 r0)) } := by
    simp [stage1, roundOne, uP10, uP8A, hsplit]
  have hstage2 := stage2_join5 (rotl5By1 l0) (rotl5By1 r0)
  have hexec : exec (.split5 (permP10 key)) s = .next (s.setOpOut (.halves l0 r0)) := by
    simp [exec, execSplit5, hsplit]
  exact ⟨_, l0, r0, _, _, _, _, _, _, _, _, rfl, hexec, rfl, rfl, rfl, rfl, hstage1, exec_split5_join5 _ _ s, rfl, rfl, rfl,
    rfl, hstage2, deriveTaps_of_stages hstage1 hstage2⟩

/-! ## WAIT (R61) -/

/-- An IDLE answers where stage 1 can be read (R122, R125). -/
theorem execIdle_of_readable {s : State} (h : Readable s) : ∃ t, execIdle s = .next t := by
  obtain ⟨u, hu⟩ := (advanceStage2_ok_iff s).2 h
  exact ⟨_, edge_of_advance hu 0#1 0#10⟩

/-- The valid bits move on by one stage at an IDLE (R125). -/
theorem execIdle_valid {s t : State} (h : execIdle s = .next t) : t.s1Valid = 0#1 ∧ t.s2Valid = s.s1Valid := by
  obtain ⟨u, hu, rfl⟩ := execIdle_next h
  obtain ⟨hv, rfl⟩ | ⟨hv, _, _, _, -, -, -, rfl⟩ := advanceStage2_ok hu <;> simp [hv]

/-- An IDLE with stage 1 empty only clears the valid bit of stage 2 (R125). -/
theorem execIdle_of_empty {s : State} (h : s.s1Valid = 0#1) : execIdle s = .next { s with s2Valid := 0#1 } := by
  simp [execIdle, edge, State.advanceStage2, State.loadStage1, nextS1Valid, nextS2Valid, h]

/-- IDLE edges with stage 1 empty do no more than the first of them. -/
theorem idleEdges_of_empty {s : State} (n : Nat) (h : s.s1Valid = 0#1) :
    idleEdges n s = .next { s with s2Valid := if n = 0 then s.s2Valid else 0#1 } := by
  induction n generalizing s with
  | zero => rfl
  | succ n ih =>
    rw [idleEdges_succ n (execIdle_of_empty h), ih (s := { s with s2Valid := 0#1 }) h]
    simp

/-- The edges of IDLE words are the IDLE edges of a WAIT (R61). -/
theorem runEdges_replicate_idle (n : Nat) (s : State) : runEdges (List.replicate n 0x000#12) s = idleEdges n s := by
  induction n generalizing s with
  | zero => rfl
  | succ n ih =>
    have hword : edgeOf 0x000#12 s = execIdle s := rfl
    rw [List.replicate_succ, runEdges, idleEdges, hword]
    cases execIdle s with
    | next t => exact ih t
    | fault f => rfl
    | refused r => rfl

/-- Settles O30: the first IDLE edge empties stage 1, so each further one only clears `s2_valid`. -/
theorem waitIsThatManyIdleEdges : Obligations.WaitIsThatManyIdleEdges := by
  intro n s hn hs
  obtain ⟨n, rfl⟩ := Nat.exists_eq_add_of_le' hn
  obtain ⟨t, ht⟩ := execIdle_of_readable hs
  obtain ⟨hempty, hvalid⟩ := execIdle_valid ht
  have hwait : idleEdges (n + 1) s = .next { t with s2Valid := if n + 1 = 1 then s.s1Valid else 0#1 } := by
    simp [idleEdges_succ n ht, idleEdges_of_empty n hempty, hvalid]
  refine ⟨t, _, ht, ?_, (runEdges_replicate_idle _ s).trans hwait, rfl⟩
  change execWait (n + 1) s = _
  rw [execWait, if_neg (Nat.succ_ne_zero n), hwait]

/-! ## The result bundle (R59) -/

/-- Settles O36: a field is read by dropping the fields behind it, one after the other. -/
theorem resultBundleLayout : Obligations.ResultBundleLayout := by
  intro v k1 k2 p c1 c2
  unfold out47
  refine ⟨?_, ?_, ?_, ?_, ?_, BitVec.extractLsb'_append_eq_right⟩
  · iterate 5 rw [BitVec.extractLsb'_append_eq_of_le (by decide)]
    exact BitVec.extractLsb'_eq_self
  · iterate 4 rw [BitVec.extractLsb'_append_eq_of_le (by decide)]
    exact BitVec.extractLsb'_append_eq_right
  · iterate 3 rw [BitVec.extractLsb'_append_eq_of_le (by decide)]
    exact BitVec.extractLsb'_append_eq_right
  · iterate 2 rw [BitVec.extractLsb'_append_eq_of_le (by decide)]
    exact BitVec.extractLsb'_append_eq_right
  · rw [BitVec.extractLsb'_append_eq_of_le (by decide)]
    exact BitVec.extractLsb'_append_eq_right

/-! ## Stimulus text line by line (R61) -/

/-- Lines with their NEWLINEs, then another text, are those lines and the lines of that text. -/
theorem splitLines_append {cur a b : List Char} {ls ms : List (List Char)} (ha : splitLines cur a = some ls)
    (hb : splitLines [] b = some ms) : splitLines cur (a ++ b) = some (ls ++ ms) := by
  induction a generalizing cur ls with
  | nil =>
    cases cur with
    | nil =>
      obtain rfl : [] = ls := Option.some.inj ha
      exact hb
    | cons => cases ha
  | cons c cs ih =>
    rw [List.cons_append]
    unfold splitLines at ha ⊢
    split at ha
    · split at ha
      · next hc _ rest hrest =>
        obtain rfl := Option.some.inj ha
        simp [hc, ih hrest]
      · cases ha
    · next hc => rw [if_neg hc, ih ha]

/-- A line with its NEWLINE is one line. -/
theorem splitLines_line (cur line : List Char) (h : '\n' ∉ line) :
    splitLines cur (line ++ ['\n']) = some [cur.reverse ++ line] := by
  induction line generalizing cur with
  | nil => simp [splitLines]
  | cons c cs ih =>
    obtain ⟨hc, hcs⟩ := not_or.1 (List.mem_cons.not.1 h)
    simp [splitLines, Ne.symm hc, ih _ hcs]

/-- A text assembles when its lines are ended and each of them assembles. -/
theorem assemble_ok_iff {text : List Char} {ws : List EdgeWord} :
    assemble text = .ok ws ↔ ∃ ls, splitLines [] text = some ls ∧ assembleLines ls = .ok ws := by
  unfold assemble
  split <;> simp [*]

/-- Lines assemble when the first one and the others do. -/
theorem assembleLines_cons_ok_iff {l : List Char} {ls : List (List Char)} {us : List EdgeWord} :
    assembleLines (l :: ls) = .ok us ↔
      ∃ ws vs, assembleLine l = .ok ws ∧ assembleLines ls = .ok vs ∧ us = ws ++ vs := by
  rw [assembleLines]
  split
  · simp [*]
  · split <;> simp [*, eq_comm]

theorem assembleLines_append {ls ms : List (List Char)} {ws vs : List EdgeWord} (hl : assembleLines ls = .ok ws)
    (hm : assembleLines ms = .ok vs) : assembleLines (ls ++ ms) = .ok (ws ++ vs) := by
  induction ls generalizing ws with
  | nil =>
    obtain rfl : [] = ws := Except.ok.inj hl
    exact hm
  | cons l ls ih =>
    obtain ⟨us, ws, hline, hrest, rfl⟩ := assembleLines_cons_ok_iff.1 hl
    exact assembleLines_cons_ok_iff.2 ⟨us, ws ++ vs, hline, ih hrest, List.append_assoc us ws vs⟩

/-- Settles O54: the lines of both texts, and the words of those lines, follow each other. -/
theorem textsAssembleInOrder : Obligations.TextsAssembleInOrder := by
  intro a b ws vs ha hb
  obtain ⟨ls, hls, hws⟩ := assemble_ok_iff.1 ha
  obtain ⟨ms, hms, hvs⟩ := assemble_ok_iff.1 hb
  exact assemble_ok_iff.2 ⟨ls ++ ms, splitLines_append hls hms, assembleLines_append hws hvs⟩

/-- A text of one line assembles as that line does. -/
theorem assemble_line (line : List Char) (h : '\n' ∉ line) : assemble (line ++ ['\n']) = assembleLine line := by
  rw [assemble, splitLines_line [] line h]
  change assembleLines [line] = _
  rw [assembleLines]
  cases assembleLine line <;> simp [assembleLines]

/-! ## A line of two words -/

/-- The character stands for itself in a word: it is no blank, no NEWLINE and starts no comment (log entry 11). -/
def isPlain (c : Char) : Bool := !isBlank c && c != '\n' && c != ';'

theorem isPlain_iff (c : Char) : isPlain c = true ↔ isBlank c = false ∧ c ≠ '\n' ∧ c ≠ ';' := by
  simp [isPlain, and_assoc]

/-- Plain characters go on with the word being read. -/
theorem splitWords_append_plain (cur word rest : List Char) (h : ∀ c ∈ word, isPlain c = true) :
    splitWords cur (word ++ rest) = splitWords (word.reverse ++ cur) rest := by
  induction word generalizing cur with
  | nil => rfl
  | cons c cs ih =>
    obtain ⟨hc, hcs⟩ := List.forall_mem_cons.1 h
    have hblank : isBlank c = false := ((isPlain_iff c).1 hc).1
    rw [List.cons_append, splitWords, hblank, if_neg Bool.false_ne_true, ih _ hcs]
    simp

/-- A blank and the end of the line end a word. -/
theorem splitWords_two {word operand : List Char} (hword : ∀ c ∈ word, isPlain c = true)
    (hoperand : ∀ c ∈ operand, isPlain c = true) (hwne : word ≠ []) (hone : operand ≠ []) :
    splitWords [] (word ++ ' ' :: operand) = [word, operand] := by
  have hlast : splitWords [] operand = [operand] := by
    simpa [splitWords, hone] using splitWords_append_plain [] operand [] hoperand
  rw [splitWords_append_plain [] word _ hword]
  simp [splitWords, isBlank, hwne, hlast]

/-- A line of a statement's name and its operand assembles to the words of that statement, or to its refusal (R61). -/
theorem assemble_textLine {word operand : List Char} (hword : ∀ c ∈ word, isPlain c = true)
    (hoperand : ∀ c ∈ operand, isPlain c = true) (hwne : word ≠ []) (hone : operand ≠ []) :
    assemble (textLine word operand) = (parseStmt [word, operand]).map fun i => i.elim [] encode := by
  have hline : ∀ c ∈ word ++ ' ' :: operand, c ≠ '\n' ∧ c ≠ ';' := by
    intro c hc
    rcases List.mem_append.1 hc with hc | hc
    · exact ((isPlain_iff c).1 (hword c hc)).2
    · rcases List.mem_cons.1 hc with rfl | hc
      · decide
      · exact ((isPlain_iff c).1 (hoperand c hc)).2
  have hstrip : stripComment (word ++ ' ' :: operand) = word ++ ' ' :: operand :=
    List.takeWhile_eq_self_iff.2 fun c hc => by simp [(hline c hc).2]
  have htext : textLine word operand = (word ++ ' ' :: operand) ++ ['\n'] := by simp [textLine]
  rw [htext, assemble_line _ fun h => (hline _ h).1 rfl, assembleLine, hstrip,
    splitWords_two hword hoperand hwne hone]
  rcases parseStmt [word, operand] with r | (_ | i) <;> rfl

/-! ## Numerals -/

/-- A digit is a plain character. -/
theorem isPlain_of_digitValue {c : Char} {d : Nat} (h : digitValue c = some d) : isPlain c = true := by
  have hne (b : Char) (hb : digitValue b = none) : c ≠ b := by
    rintro rfl
    rw [hb] at h
    cases h
  have hblank : isBlank c = false := by simp [isBlank, hne ' ' rfl, hne '\t' rfl]
  exact (isPlain_iff c).2 ⟨hblank, hne '\n' rfl, hne ';' rfl⟩

section Numerals

variable {α : Type} {base : Nat} {char : α → Char} {value : α → Nat}

/-- A numeral of digits, each written by a character of its value below the base, is the number of those digits (R61). -/
theorem numeralFrom_map (hchar : ∀ d, digitValue (char d) = some (value d)) (hlt : ∀ d, value d < base) (acc : Nat)
    (ds : List α) :
    numeralFrom base acc (ds.map char) = some (ds.foldl (fun a d => base * a + value d) acc) := by
  induction ds generalizing acc with
  | nil => rfl
  | cons d ds ih => simp [numeralFrom, hchar, hlt, ih]

theorem numeral_map (hchar : ∀ d, digitValue (char d) = some (value d)) (hlt : ∀ d, value d < base) {ds : List α}
    (hds : ds ≠ []) : numeral base (ds.map char) = some (ds.foldl (fun a d => base * a + value d) 0) := by
  rw [numeral, if_neg (by simpa using hds), numeralFrom_map hchar hlt]

theorem isPlain_of_mem_map (hchar : ∀ d, digitValue (char d) = some (value d)) (ds : List α) :
    ∀ c ∈ ds.map char, isPlain c = true := by
  intro c hc
  obtain ⟨d, -, rfl⟩ := List.mem_map.1 hc
  exact isPlain_of_digitValue (hchar d)

end Numerals

theorem digitValue_binary (b : Bool) : digitValue (if b then '1' else '0') = some b.toNat := by
  revert b; decide

theorem digitValue_decimal (d : Fin 10) : digitValue (Char.ofNat (48 + d.val)) = some d.val := by
  revert d; decide

theorem digitValue_hex (d : Bool × Fin 16) : digitValue ((hexChars d.1).getD d.2.val ' ') = some d.2.val := by
  revert d; decide

theorem numeral_binaryDigits {ds : List Bool} (hds : ds ≠ []) : numeral 2 (binaryDigits ds) = some (binaryValue ds) :=
  numeral_map digitValue_binary Bool.toNat_lt hds

theorem numeral_decimalDigits {ds : List (Fin 10)} (hds : ds ≠ []) :
    numeral 10 (decimalDigits ds) = some (decimalValue ds) :=
  numeral_map digitValue_decimal Fin.isLt hds

theorem numeral_hexDigits {ds : List (Bool × Fin 16)} (hds : ds ≠ []) :
    numeral 16 (hexDigits ds) = some (hexValue ds) :=
  numeral_map digitValue_hex (fun d => d.2.isLt) hds

/-! ## DERIVE and WAIT lines -/

/-- A DERIVE line is the edge word of its key, or the key's refusal. -/
theorem assemble_derive_line {key : List Char} (hkey : ∀ c ∈ key, isPlain c = true) (hne : key ≠ []) :
    assemble (textLine ['D', 'E', 'R', 'I', 'V', 'E'] key) = (parseKey key).map fun k => [edgeWord 0#1 1#1 k] := by
  rw [assemble_textLine (List.all_eq_true.1 rfl) hkey (List.cons_ne_nil _ _) hne]
  simp only [parseStmt, if_true]
  cases parseKey key <;> rfl

/-- A WAIT line is as many IDLE words as its count, or the count's refusal. -/
theorem assemble_wait_line {count : List Char} (hcount : ∀ c ∈ count, isPlain c = true) (hne : count ≠ []) :
    assemble (textLine ['W', 'A', 'I', 'T'] count) = (parseCount count).map fun n => List.replicate n 0x000#12 := by
  rw [assemble_textLine (List.all_eq_true.1 rfl) hcount (List.cons_ne_nil _ _) hne]
  simp only [parseStmt]
  cases parseCount count <;> rfl

/-- The same for a key of digits with the letter of their base. -/
theorem assemble_derive_digits {base : Char} {α : Type} {char : α → Char} {value : α → Nat}
    (hbase : isPlain base = true) (hchar : ∀ d, digitValue (char d) = some (value d)) (ds : List α) :
    assemble (textLine ['D', 'E', 'R', 'I', 'V', 'E'] ('0' :: base :: ds.map char)) =
      (parseKey ('0' :: base :: ds.map char)).map fun k => [edgeWord 0#1 1#1 k] :=
  assemble_derive_line
    (List.forall_mem_cons.2 ⟨by decide, List.forall_mem_cons.2 ⟨hbase, isPlain_of_mem_map hchar ds⟩⟩)
    (List.cons_ne_nil _ _)

/-- Settles O51. -/
theorem binaryKeyText : Obligations.BinaryKeyText := by
  intro ds hds
  have hline := assemble_derive_digits (base := 'b') (by decide) digitValue_binary ds
  change assemble (textLine _ ('0' :: 'b' :: binaryDigits ds)) = (parseBinKey (binaryDigits ds)).map _ at hline
  have hlen : (binaryDigits ds).length = ds.length := List.length_map _
  rw [hline, parseBinKey, numeral_binaryDigits hds, hlen]
  constructor
  · intro h
    simp [h, Except.map]
  · intro h
    simp [Nat.not_le.2 h, Except.map]

/-- Settles O53. -/
theorem hexKeyText : Obligations.HexKeyText := by
  intro ds hds
  have hline := assemble_derive_digits (base := 'x') (by decide) digitValue_hex ds
  change assemble (textLine _ ('0' :: 'x' :: hexDigits ds)) = (parseHexKey (hexDigits ds)).map _ at hline
  have hlen : (hexDigits ds).length = ds.length := List.length_map _
  rw [hline, parseHexKey, numeral_hexDigits hds, hlen]
  refine ⟨fun hval hdigits => ?_, fun hval => ?_, fun hval hdigits => ?_⟩
  · simp [Nat.not_lt.2 hval, hdigits, Except.map]
  · simp [hval, Except.map]
  · simp [Nat.not_lt.2 hval, Nat.not_le.2 hdigits, Except.map]

/-- Settles O52. -/
theorem waitText : Obligations.WaitText := by
  intro ds hds
  have hne : decimalDigits ds ≠ [] := by simpa [decimalDigits] using hds
  have hplain : ∀ c ∈ decimalDigits ds, isPlain c = true := isPlain_of_mem_map digitValue_decimal ds
  rw [assemble_wait_line hplain hne, parseCount, numeral_decimalDigits hds]
  constructor
  · intro h
    simp [h, Except.map]
  · intro h
    simp [h, Except.map]

end Sys2Proof.Proofs

/-! Proofs of the statements about the permutation engine (spec/40_permutation_engine.md R70 to R78), of its operations and the
other internal ones, and of what they leave alone (R72). -/

namespace Sys2Proof.Proofs

open Sys2Proof.Machine Sys2Proof.Safety

/-! ## Values by their positions (R10) -/

@[simp] theorem length_identityTable (n : Nat) : (identityTable n).length = n := by
  simp [identityTable]

theorem mem_identityTable {n p : Nat} : p ∈ identityTable n ↔ 1 ≤ p ∧ p ≤ n := by
  simp only [identityTable, List.mem_map, List.mem_range]
  constructor
  · rintro ⟨i, hi, rfl⟩
    omega
  · rintro ⟨h1, hn⟩
    exact ⟨p - 1, by omega, by omega⟩

theorem nodup_identityTable (n : Nat) : (identityTable n).Nodup :=
  List.nodup_range.map (add_left_injective 1)

/-- The bits of a value from position 1 to its last position (R10). -/
def positionBits {w : Nat} (v : BitVec w) : List Bool := (identityTable w).map (posBit v)

/-- A value is determined by the bits at its positions. -/
theorem positionBits_inj {w : Nat} {a b : BitVec w} : positionBits a = positionBits b ↔ a = b := by
  refine ⟨fun h => BitVec.eq_of_getLsbD_eq fun j hj => ?_, congrArg positionBits⟩
  have hpos : posBit a (w - j) = posBit b (w - j) :=
    List.map_inj_left.1 h _ (mem_identityTable.2 (by omega))
  have hj' : w - (w - j) = j := by omega
  simpa only [posBit, bit, hj'] using hpos

/-- The one bits of a value can be counted by position. -/
theorem ones_eq_count {w : Nat} (v : BitVec w) : ones v = (positionBits v).count true := by
  have hrev : (List.range w).reverse = (identityTable w).map (w - ·) := by
    simp [identityTable, List.range_eq_range', List.reverse_range', List.map_map, Function.comp_def, Nat.sub_add_eq,
      Nat.sub_right_comm]
  rw [ones, ← List.countP_reverse, hrev, positionBits, List.count, List.countP_map, List.countP_map]
  simp [Function.comp_def, posBit]

/-! ## The engine by position (R70, R73) -/

section Engine

variable {wT wS n : Nat} {t : Table}

/-- Position i+1 of the output is position `T[i]` of the input (R70). -/
theorem posBit_perm (ht : t.length = wT) (v : BitVec wS) {i : Nat} (hi : i < wT) :
    posBit (perm wT wS t v) (i + 1) = posBit v (t.getD i 0) := by
  have hsel : t.length - 1 - (wT - (i + 1)) = i := by omega
  have hj : wT - (i + 1) < wT := by omega
  rw [posBit, bit, getLsbD_perm, decide_eq_true hj, Bool.true_and, selIndex, hsel, posBit, bit]

/-- The output is the source bits at the positions the table lists (R70). -/
theorem positionBits_perm (ht : t.length = wT) (v : BitVec wS) :
    positionBits (perm wT wS t v) = t.map (posBit v) := by
  refine List.ext_getElem (by simp [positionBits, ht]) fun i _ hi => ?_
  have hit : i < t.length := by simpa using hi
  simp [positionBits, identityTable, posBit_perm ht v (ht ▸ hit), hit]

/-- Two outputs agree exactly when the inputs agree at every position the table holds. -/
theorem perm_eq_perm_iff (ht : t.length = wT) {a b : BitVec wS} :
    perm wT wS t a = perm wT wS t b ↔ ∀ e ∈ t, posBit a e = posBit b e := by
  rw [← positionBits_inj, positionBits_perm ht, positionBits_perm ht, List.map_inj_left]

theorem perm_identityTable (v : BitVec n) : perm n n (identityTable n) v = v := by
  rw [← positionBits_inj, positionBits_perm (length_identityTable n), positionBits]

/-- The composed table of two well-formed ones is well-formed (R56, R78 item 2). -/
theorem tableWf_composeTables {wM : Nat} {t1 t2 : Table} (h1 : tableWf t1 wM wS = true)
    (h2 : tableWf t2 wT wM = true) : tableWf (composeTables t1 t2) wT wS = true := by
  obtain ⟨hlen1, -, hwS, hwS', hentries1⟩ := tableWf_iff.1 h1
  obtain ⟨hlen2, hwT, -, -, hentries2⟩ := tableWf_iff.1 h2
  refine tableWf_iff.2 ⟨by simp [composeTables, hlen2], hwT, hwS, hwS', fun e he => ?_⟩
  obtain ⟨p, hp, rfl⟩ := List.mem_map.1 he
  have hpos : p - 1 < t1.length := by have := hentries2 p hp; omega
  rw [List.getD_eq_getElem _ _ hpos]
  exact hentries1 _ (List.getElem_mem hpos)

/-- Two engines in a row select through both tables (R78 item 2). -/
theorem perm_perm {wM : Nat} {t1 t2 : Table} (h1 : tableWf t1 wM wS = true) (h2 : tableWf t2 wT wM = true)
    (v : BitVec wS) : perm wT wM t2 (perm wM wS t1 v) = perm wT wS (composeTables t1 t2) v := by
  obtain ⟨hlen1, -⟩ := tableWf_iff.1 h1
  obtain ⟨hlen2, -, -, -, hentries2⟩ := tableWf_iff.1 h2
  obtain ⟨hlen, -⟩ := tableWf_iff.1 (tableWf_composeTables h1 h2)
  rw [← positionBits_inj, positionBits_perm hlen2, positionBits_perm hlen, composeTables, List.map_map]
  refine List.map_congr_left fun p hp => ?_
  obtain ⟨hp1, hpM⟩ := hentries2 p hp
  have hpos : posBit (perm wM wS t1 v) (p - 1 + 1) = posBit v (t1.getD (p - 1) 0) := posBit_perm hlen1 v (by omega)
  rwa [Nat.sub_add_cancel hp1] at hpos

/-! ## Square tables (R78 item 3) -/

/-- A square table that holds every position is a rearrangement of the identity table. -/
theorem listPerm_identityTable_of_mem (ht : t.length = n) (h : ∀ p, 1 ≤ p → p ≤ n → p ∈ t) :
    t.Perm (identityTable n) := by
  have hsub : identityTable n ⊆ t := fun p hp => (mem_identityTable.1 hp).elim (h p)
  exact ((List.subperm_of_subset (nodup_identityTable n) hsub).perm_of_length_le (by simp [ht])).symm

theorem holdsEachOnce_iff_listPerm (ht : t.length = n) : HoldsEachOnce t n ↔ t.Perm (identityTable n) := by
  constructor
  · intro h
    refine listPerm_identityTable_of_mem ht fun p h1 hn => List.count_pos_iff.1 ?_
    rw [h p h1 hn]
    exact Nat.one_pos
  · intro h p h1 hn
    rw [h.count_eq]
    exact List.count_eq_one_of_mem (nodup_identityTable n) (mem_identityTable.2 ⟨h1, hn⟩)

/-- An engine that is injective reads every position: the value with a one bit only at a position not read would give the
output of 0. -/
theorem mem_of_perm_injective (ht : tableWf t n n = true) (hinj : Function.Injective (perm n n t)) {p : Nat}
    (h1 : 1 ≤ p) (hn : p ≤ n) : p ∈ t := by
  obtain ⟨hlen, -, -, -, hentries⟩ := tableWf_iff.1 ht
  by_contra hp
  have heq : perm n n t (BitVec.twoPow n (n - p)) = perm n n t 0#n := by
    refine (perm_eq_perm_iff hlen).2 fun e he => ?_
    have hne : n - p ≠ n - e := by
      have : e ≠ p := fun h => hp (h ▸ he)
      have := hentries e he
      omega
    simp [posBit, bit, BitVec.getLsbD_twoPow, hne]
  have hbit := congrArg (·.getLsbD (n - p)) (hinj heq)
  have hlt : n - p < n := by omega
  simp [hlt] at hbit

/-- An engine that rearranges the positions loses none of them. -/
theorem perm_injective_of_listPerm (ht : t.Perm (identityTable n)) : Function.Injective (perm n n t) := by
  intro a b hab
  have hlen : t.length = n := by simpa using ht.length_eq
  rw [perm_eq_perm_iff hlen] at hab
  exact positionBits_inj.1 (List.map_congr_left fun p hp => hab p (ht.mem_iff.2 hp))

/-- An engine that rearranges the positions keeps the number of one bits. -/
theorem ones_perm_of_listPerm (ht : t.Perm (identityTable n)) (v : BitVec n) : ones (perm n n t v) = ones v := by
  have hlen : t.length = n := by simpa using ht.length_eq
  rw [ones_eq_count, ones_eq_count, positionBits_perm hlen, positionBits]
  exact (ht.map _).count_eq true

end Engine

/-- Settles O9. -/
theorem permSelectsTablePositions : Obligations.PermSelectsTablePositions := by
  intro wT wS t v h
  obtain ⟨hlen, -, hwS, -, hentries⟩ := tableWf_iff.1 h
  refine ⟨fun i hi => posBit_perm hlen v hi, fun j hj => ⟨?_, ?_⟩⟩
  · have hi : wT - 1 - j < t.length := by omega
    have := hentries _ (List.getElem_mem hi)
    rw [List.getD_eq_getElem _ _ hi]
    omega
  · rw [getLsbD_perm, decide_eq_true hj, Bool.true_and, selIndex, hlen]

/-- Settles O12. -/
theorem permIdentity : Obligations.PermIdentity :=
  fun _ v _ => perm_identityTable v

/-- Settles O13. -/
theorem permComposition : Obligations.PermComposition :=
  fun _ _ _ _ _ v h1 h2 => ⟨tableWf_composeTables h1 h2, perm_perm h1 h2 v⟩

/-- Settles O14: on finitely many values injective is bijective, and injective is that every position is read. -/
theorem permBijectionIff : Obligations.PermBijectionIff := by
  intro n t h
  obtain ⟨hlen, -⟩ := tableWf_iff.1 h
  rw [← Finite.injective_iff_bijective, holdsEachOnce_iff_listPerm hlen]
  constructor
  · intro hinj
    exact listPerm_identityTable_of_mem hlen fun _ h1 hn => mem_of_perm_injective h hinj h1 hn
  · exact perm_injective_of_listPerm

/-- Settles O15: the bits of both sides are the same combination of the two selected source bits. -/
theorem permLinearity : Obligations.PermLinearity := by
  intro wT wS t a b
  refine ⟨?_, ?_, ?_⟩ <;> refine BitVec.eq_of_getLsbD_eq fun j hj => ?_
  · simp only [getLsbD_perm, BitVec.getLsbD_or, Bool.and_or_distrib_left]
  · simp only [getLsbD_perm, BitVec.getLsbD_and, decide_eq_true hj, Bool.true_and]
  · simp only [getLsbD_perm, BitVec.getLsbD_xor, Bool.and_xor_distrib_left]

/-! ## PERM_P10 and PERM_P8 (R75, R76) -/

/-- The ten multiplexers of PERM_P10, from output bit 9 down (R75). -/
theorem permP10_bits (v : Word10) :
    permP10 v = BitVec.ofBoolListBE [v[7], v[5], v[8], v[3], v[6], v[0], v[9], v[1], v[2], v[4]] :=
  rfl

/-- The eight multiplexers of PERM_P8, from output bit 7 down (R76). -/
theorem permP8_bits (v : Word10) :
    permP8 v = BitVec.ofBoolListBE [v[4], v[7], v[3], v[6], v[2], v[5], v[0], v[1]] :=
  rfl

theorem tableP10_listPerm : tableP10.Perm (identityTable 10) := by
  decide

/-- P10 is undone by the table of R75's corner cases: composed they are the identity table. -/
theorem perm_inverse_permP10 (v : Word10) : perm 10 10 [7, 3, 1, 5, 2, 10, 4, 9, 8, 6] (permP10 v) = v := by
  have hid : composeTables tableP10 [7, 3, 1, 5, 2, 10, 4, 9, 8, 6] = identityTable 10 := rfl
  rw [permP10, perm_perm (by decide) (by decide), hid, perm_identityTable]

/-- No entry of P8 is a position of bits 9:8, so values that agree on bits 7:0 give the same result (R76). -/
theorem permP8_congr {v v' : Word10} (h : v.extractLsb' 0 8 = v'.extractLsb' 0 8) : permP8 v = permP8 v' := by
  refine (perm_eq_perm_iff (t := tableP8) rfl).2 fun e he => ?_
  have hlow : 10 - e < 8 := (by decide : ∀ e ∈ tableP8, 10 - e < 8) e he
  have hbit := congrArg (·.getLsbD (10 - e)) h
  simpa [posBit, bit, hlow] using hbit

/-- Settles O16: P10 rearranges the ten positions, which makes it a bijection that keeps the number of one bits. -/
theorem permutationInstancesSelectTheirBits : Obligations.PermutationInstancesSelectTheirBits := by
  have hbij : Function.Bijective permP10 :=
    Finite.injective_iff_bijective.1 (perm_injective_of_listPerm tableP10_listPerm)
  exact ⟨permP10_bits, hbij, ones_perm_of_listPerm tableP10_listPerm, perm_inverse_permP10, permP8_bits,
    fun _ _ => permP8_congr⟩

/-! ## The operations (R56, R58, R72, R91) -/

theorem exec_perm_of_wf {wT wS : Nat} {t : Table} (h : tableWf t wT wS = true) (v : BitVec wS) (s : State) :
    exec (.perm wT wS t v) s = .next (s.setOpOut (.bits wT (perm wT wS t v))) := by
  simp [exec, execPerm, elabTable_ok.2 ⟨h, rfl⟩]

theorem exec_perm_of_error {wT wS : Nat} {t : Table} {r : Refusal} (h : elabTable t wT wS = .error r) (v : BitVec wS)
    (s : State) : exec (.perm wT wS t v) s = .refused r := by
  simp [exec, execPerm, h]

theorem exec_rotl5_of_mem {n : Int} (h0 : 0 ≤ n) (h5 : n ≤ 5) (x : Half) (s : State) :
    exec (.rotl5 x n) s = .next (s.setOpOut (.bits 5 (rotl5 x n.toNat))) := by
  simp [exec, execRotl5, elabRotation_ok.2 ⟨h0, h5, rfl⟩]

/-- A rotation outside `[0, 5]` is refused (R91). -/
theorem exec_rotl5_of_not_mem {n : Int} (h : n < 0 ∨ 5 < n) (x : Half) (s : State) :
    exec (.rotl5 x n) s = .refused .rotationOutOfRange := by
  have herr : elabRotation n = .error .rotationOutOfRange := if_neg (by omega)
  simp [exec, execRotl5, herr]

/-- Settles O11: PERM by the condition its table is held to (R56), ROTL5 by its range (R91). -/
theorem genericOperationsRunOrRefuse : Obligations.GenericOperationsRunOrRefuse := by
  refine ⟨fun wT wS t v s hlen hT hS hS' ht => ?_, fun wT wS t v s h => ?_, fun x n s h0 h5 => ?_, fun x n s h => ?_,
    fun s => rfl⟩
  · exact exec_perm_of_wf (tableWf_iff.2 ⟨hlen, hT, hS, hS', ht⟩) v s
  · exact exec_perm_of_error ((illFormedTableIsRefused wT wS t).1.2 h) v s
  · exact exec_rotl5_of_mem h0 h5 x s
  · exact exec_rotl5_of_not_mem h x s

/-- Settles O17: both operations drive their function's value, and its bits are those selected (R75, R76). -/
theorem permInstancesComplete : Obligations.PermInstancesComplete := by
  refine ⟨fun v s => ?_, fun v s => ?_⟩
  · rw [← permP10_bits]
    rfl
  · rw [← permP8_bits]
    rfl

/-- Settles O45: an internal operation that answers does nothing but drive its output. -/
theorem internalOperationsTouchNoRegister : Obligations.InternalOperationsTouchNoRegister := by
  intro i s t hi h
  obtain ⟨o, rfl⟩ := exec_internal_next hi h
  refine ⟨?_, State.setOpOut_stim s o, ?_, ?_⟩
  · simp [SameRegs]
  · simp [State.outputs]
  · simp

end Sys2Proof.Proofs

/-! Proofs of the statements about the key schedule (spec/41_key_schedule.md R90 to R102): the halves and their rotations, and the
subkeys as fixed selections from the key. A rotation rotates the list of bits at positions 1 to 5, so its laws are those of
`List.rotate`. -/

namespace Sys2Proof.Proofs

open Sys2Proof.Machine Sys2Proof.Safety

/-! ## Positions of written-out, joined and split values (R10) -/

@[simp] theorem length_positionBits {w : Nat} (v : BitVec w) : (positionBits v).length = w := by
  simp [positionBits]

/-- The bits by position are Lean's bits counted from the most significant one. -/
@[simp] theorem getElem_positionBits {w : Nat} (v : BitVec w) (i : Nat) (hi : i < (positionBits v).length) :
    (positionBits v)[i] = v.getMsbD i := by
  have hw : i < w := by simpa using hi
  simp [positionBits, identityTable, posBit, bit, BitVec.getMsbD_eq_getLsbD, hw, Nat.sub_add_eq, Nat.sub_right_comm]

@[simp] theorem positionBits_ofBoolListBE (bs : List Bool) : positionBits (BitVec.ofBoolListBE bs) = bs :=
  List.ext_getElem (by simp) fun i _ hi => by simp [hi]

/-- A value is written out by its positions. -/
theorem eq_ofBoolListBE (bs : List Bool) {v : BitVec bs.length} (h : positionBits v = bs) : v = BitVec.ofBoolListBE bs :=
  positionBits_inj.1 (h.trans (positionBits_ofBoolListBE bs).symm)

theorem positionBits_append {m n : Nat} (a : BitVec m) (b : BitVec n) :
    positionBits (a ++ b) = positionBits a ++ positionBits b :=
  List.ext_getElem (by simp) fun i _ _ => by
    simp only [getElem_positionBits, BitVec.getMsbD_append, List.getElem_append, length_positionBits]
    by_cases h : i < m <;> simp [h]

/-- The halves of a value joined are that value (R90, R94). -/
@[simp] theorem join5_split5 (x : Word10) : join5 (split5 x).l (split5 x).r = x := by
  rw [join5_eq_append]
  refine BitVec.eq_of_getLsbD_eq fun j hj => ?_
  simp only [split5, slice, BitVec.getLsbD_append, BitVec.getLsbD_extractLsb']
  by_cases h : j < 5
  · simp [h]
  · have hhigh : j - 5 < 5 := by omega
    have hback : 5 + (j - 5) = j := by omega
    simp [h, hhigh, hback]

theorem positionBits_split5 (x : Word10) : positionBits x = positionBits (split5 x).l ++ positionBits (split5 x).r := by
  rw [← positionBits_append, ← join5_eq_append, join5_split5]

/-- SPLIT5's left half is positions 1 to 5 (R90). -/
theorem positionBits_split5_l (x : Word10) : positionBits (split5 x).l = (positionBits x).take 5 := by
  rw [positionBits_split5, List.take_left' (length_positionBits _)]

/-- SPLIT5's right half is positions 6 to 10 (R90). -/
theorem positionBits_split5_r (x : Word10) : positionBits (split5 x).r = (positionBits x).drop 5 := by
  rw [positionBits_split5, List.drop_left' (length_positionBits _)]

theorem split5_bits (x : Word10) :
    split5 x = { l := BitVec.ofBoolListBE [x[9], x[8], x[7], x[6], x[5]]
                 r := BitVec.ofBoolListBE [x[4], x[3], x[2], x[1], x[0]] } :=
  congrArg₂ Halves.mk (eq_ofBoolListBE [_, _, _, _, _] (positionBits_split5_l x))
    (eq_ofBoolListBE [_, _, _, _, _] (positionBits_split5_r x))

/-! ## Rotations (R91 to R93) -/

/-- ROTL5 rotates the positions to the left (R91). -/
theorem positionBits_rotl5 (x : Half) {n : Nat} (hn : n ≤ 5) : positionBits (rotl5 x n) = (positionBits x).rotate n := by
  refine List.ext_getElem (by simp) fun i hi _ => ?_
  have hi : i < 5 := by simpa using hi
  have hmod : (i + n) % 5 < 5 := Nat.mod_lt _ (by decide)
  have hsource : (5 - 1 - (i + n) % 5 + n) % 5 = 5 - 1 - i := by omega
  simp only [List.getElem_rotate, getElem_positionBits, length_positionBits, BitVec.getMsbD_eq_getLsbD, hi, hmod]
  rw [← hsource, getLsbD_rotl5 x n hn _ (by omega)]

/-- Rotations in a row add up modulo 5 (R102). -/
theorem rotl5_rotl5 (x : Half) {a b : Nat} (ha : a ≤ 5) (hb : b ≤ 5) : rotl5 (rotl5 x a) b = rotl5 x ((a + b) % 5) := by
  have hab : (a + b) % 5 ≤ 5 := (Nat.mod_lt _ (by decide)).le
  rw [← positionBits_inj, positionBits_rotl5 _ hb, positionBits_rotl5 _ ha, positionBits_rotl5 _ hab, List.rotate_rotate,
    ← List.rotate_mod, length_positionBits]

@[simp] theorem rotl5_zero (x : Half) : rotl5 x 0 = x := by
  rw [← positionBits_inj, positionBits_rotl5 x (by decide), List.rotate_zero]

@[simp] theorem rotl5_five (x : Half) : rotl5 x 5 = x := by
  have hlen : (positionBits x).rotate 5 = positionBits x := by simpa using (positionBits x).rotate_length
  rw [← positionBits_inj, positionBits_rotl5 x (by decide), hlen]

theorem ones_rotl5 (x : Half) {n : Nat} (hn : n ≤ 5) : ones (rotl5 x n) = ones x := by
  rw [ones_eq_count, ones_eq_count, positionBits_rotl5 x hn, (List.rotate_perm _ n).count_eq]

/-- The source's formula on numbers: five bits shifted by at most 5 fit in ten (R91). -/
theorem toNat_rotl5 (x : Half) {n : Nat} (hn : n ≤ 5) :
    (rotl5 x n).toNat = ((x.toNat <<< n) ||| (x.toNat >>> (5 - n))) &&& 0x1F := by
  have hleft : x.toNat <<< n < 2 ^ 10 :=
    (Nat.shiftLeft_lt x.isLt).trans_le (Nat.pow_le_pow_right (by decide) (by omega))
  have hx : x.toNat < 2 ^ 10 := x.isLt.trans (by decide)
  have hmask : ((x.toNat <<< n) ||| (x.toNat >>> (5 - n))) &&& 0x1F < 2 ^ 5 := Nat.and_lt_two_pow _ (by decide)
  simp only [rotl5, halfMask, BitVec.toNat_setWidth, BitVec.toNat_and, BitVec.toNat_or, BitVec.toNat_shiftLeft,
    BitVec.toNat_ushiftRight, Nat.mod_eq_of_lt hleft, Nat.mod_eq_of_lt hx]
  exact Nat.mod_eq_of_lt hmask

theorem rotl5By1_bits (x : Half) : rotl5By1 x = BitVec.ofBoolListBE [x[3], x[2], x[1], x[0], x[4]] :=
  eq_ofBoolListBE [_, _, _, _, _] (positionBits_rotl5 x (by decide))

theorem rotl5By2_bits (x : Half) : rotl5By2 x = BitVec.ofBoolListBE [x[2], x[1], x[0], x[4], x[3]] :=
  eq_ofBoolListBE [_, _, _, _, _] (positionBits_rotl5 x (by decide))

theorem rotl5By1_rotl5By1 (x : Half) : rotl5By1 (rotl5By1 x) = rotl5By2 x :=
  rotl5_rotl5 x (by decide) (by decide)

theorem rotl5By2_rotl5By1 (x : Half) : rotl5By2 (rotl5By1 x) = rotl5 x 3 :=
  rotl5_rotl5 x (by decide) (by decide)

/-- An amount is refused exactly when it is outside `[0, 5]` (R91). -/
theorem elabRotation_error_iff (n : Int) : elabRotation n = .error .rotationOutOfRange ↔ n < 0 ∨ 5 < n := by
  simp only [elabRotation, ite_eq_right_iff, reduceCtorEq, imp_false]
  omega

/-- Settles O20: bit j goes to bit `(j + n) % 5` is a rotation of the list of positions, which keeps its count of ones. -/
theorem rotl5RotatesOrRefuses : Obligations.Rotl5RotatesOrRefuses := by
  refine ⟨fun x n hn => ⟨toNat_rotl5 x hn, getLsbD_rotl5 x n hn, ones_rotl5 x hn⟩, fun x => ⟨rotl5_zero x, rotl5_five x⟩,
    fun n => ⟨elabRotation_error_iff n, fun h0 h5 => elabRotation_ok.2 ⟨h0, h5, rfl⟩⟩⟩

/-- Settles O18. -/
theorem halvesSplitRotateAndJoin : Obligations.HalvesSplitRotateAndJoin := by
  refine ⟨fun x => ⟨fun j hj => ?_, fun j hj => ?_, join5_split5 x⟩, rotl5By1_bits, fun x => ?_, rotl5By2_bits,
    fun x => (rotl5By1_rotl5By1 x).symm, fun l r => ⟨join5_eq_append l r, split5_join5 l r⟩⟩
  · simp [split5, slice, hj, Nat.add_comm]
  · simp [split5, slice, hj]
  · calc rotl5By1 (rotl5By1 (rotl5By1 (rotl5By1 (rotl5By1 x))))
      _ = rotl5By2 (rotl5 x 3) := by rw [rotl5By1_rotl5By1, rotl5By1_rotl5By1, rotl5By2_rotl5By1]
      _ = rotl5 x 0 := rotl5_rotl5 x (by decide) (by decide)
      _ = x := rotl5_zero x

/-- Settles O19: each operation drives its function's value, and its bits are those selected (R90, R92 to R94). -/
theorem halfOperationsComplete : Obligations.HalfOperationsComplete := by
  refine ⟨fun x s => ?_, fun x s => ?_, fun x s => ?_, fun l r s => ?_⟩
  · change execSplit5 x s = _
    rw [execSplit5, split5_bits]
    rfl
  · rw [← rotl5By1_bits]
    rfl
  · rw [← rotl5By2_bits]
    rfl
  · rw [← join5_eq_append]
    rfl

/-! ## The taps as selections from the key (R98) -/

/-- The table that rotates both halves of a 10-bit value by `n`. -/
def rotatedHalvesTable (n : Nat) : Table := ((identityTable 10).take 5).rotate n ++ ((identityTable 10).drop 5).rotate n

/-- Rotating both halves is a permutation engine. -/
theorem join5_rotl5_split5 (p : Word10) {n : Nat} (hn : n ≤ 5) :
    join5 (rotl5 (split5 p).l n) (rotl5 (split5 p).r n) = perm 10 10 (rotatedHalvesTable n) p := by
  have hlen : (rotatedHalvesTable n).length = 10 := by simp [rotatedHalvesTable]
  rw [join5_eq_append, ← positionBits_inj, positionBits_append, positionBits_rotl5 _ hn, positionBits_rotl5 _ hn,
    positionBits_split5_l, positionBits_split5_r, positionBits_perm hlen, rotatedHalvesTable, List.map_append,
    List.map_rotate, List.map_rotate, List.map_take, List.map_drop, positionBits]

/-- C2's halves are those of P rotated by 1, then by 2 (R102). -/
theorem roundTwo_roundOne (p : Word10) :
    roundTwo (roundOne p) = join5 (rotl5 (split5 p).l 3) (rotl5 (split5 p).r 3) := by
  simp [roundTwo, roundOne, rotl5By2_rotl5By1]

/-- The table of C1 (n = 1) and of C2 (n = 3) from the key: P10, then both halves rotated by `n`. -/
def roundTable (n : Nat) : Table := composeTables tableP10 (rotatedHalvesTable n)

/-- The table of K1 (n = 1) and of K2 (n = 3) from the key. -/
def subkeyTable (n : Nat) : Table := composeTables (roundTable n) tableP8

/-- Every tap is one permutation engine on the key (R98). -/
theorem deriveTaps_eq_perm (k : Word10) : deriveTaps k =
    { k1 := perm 8 10 (subkeyTable 1) k, k2 := perm 8 10 (subkeyTable 3) k, p := permP10 k,
      c1 := perm 10 10 (roundTable 1) k, c2 := perm 10 10 (roundTable 3) k } := by
  have hc1 : roundOne (permP10 k) = perm 10 10 (roundTable 1) k :=
    (join5_rotl5_split5 _ (by decide)).trans (perm_perm (by decide) (by decide) k)
  have hc2 : roundTwo (perm 10 10 (roundTable 1) k) = perm 10 10 (roundTable 3) k := by
    rw [← hc1, roundTwo_roundOne, join5_rotl5_split5 _ (by decide)]
    exact perm_perm (by decide) (by decide) k
  have hk1 : permP8 (perm 10 10 (roundTable 1) k) = perm 8 10 (subkeyTable 1) k := perm_perm (by decide) (by decide) k
  have hk2 : permP8 (perm 10 10 (roundTable 3) k) = perm 8 10 (subkeyTable 3) k := perm_perm (by decide) (by decide) k
  simp only [deriveTaps, stage1, stage2, uP10, uP8A, uP8B, hc1, hc2, hk1, hk2]

theorem deriveSubkeys_eq_perm (k : Word10) :
    deriveSubkeys k = (perm 8 10 (subkeyTable 1) k, perm 8 10 (subkeyTable 3) k) := by
  rw [deriveSubkeys, deriveTaps_eq_perm]

theorem split5_deriveTaps_c2 (k : Word10) : split5 (deriveTaps k).c2 =
    { l := rotl5 (split5 (deriveTaps k).p).l 3, r := rotl5 (split5 (deriveTaps k).p).r 3 } := by
  have hc2 : (deriveTaps k).c2 = roundTwo (roundOne (deriveTaps k).p) := rfl
  rw [hc2, roundTwo_roundOne, split5_join5]

section Linearity

variable (wT wS : Nat) (t : Table) (a b : BitVec wS)

theorem perm_or : perm wT wS t (a ||| b) = perm wT wS t a ||| perm wT wS t b :=
  (permLinearity wT wS t a b).1

theorem perm_and : perm wT wS t (a &&& b) = perm wT wS t a &&& perm wT wS t b :=
  (permLinearity wT wS t a b).2.1

theorem perm_xor : perm wT wS t (a ^^^ b) = perm wT wS t a ^^^ perm wT wS t b :=
  (permLinearity wT wS t a b).2.2

end Linearity

/-- Settles O23: the rotations compose, and the subkeys are permutation engines, which are linear. -/
theorem scheduleLaws : Obligations.ScheduleLaws := by
  refine ⟨fun x => ?_, fun x a b ha hb => rotl5_rotl5 x ha hb, split5_deriveTaps_c2, by decide, by decide, ?_, ?_, ?_⟩
  · rw [rotl5_rotl5 x (by decide) (by decide)]
    exact rotl5_zero x
  all_goals intro a b; simp only [deriveSubkeys_eq_perm]
  · rw [perm_xor, perm_xor]
  · rw [perm_or, perm_or]
  · rw [perm_and, perm_and]

/-! ## The delivery of a DERIVE (R126) -/

/-- Stage 2 takes the taps of the key whose values a valid stage 1 holds (R97, R122). -/
theorem advanceStage2_of_stage1Holds {s : State} {k : Word10} (hv : s.s1Valid = 1#1) (hs : Stage1Holds s k) :
    ∃ t, s.advanceStage2 = .ok t ∧ t.s2Valid = 1#1 ∧ Stage2Holds t k := by
  obtain ⟨hp, hc1, hk1⟩ := hs
  refine ⟨_, by rw [State.advanceStage2, if_pos hv, hp, hc1, hk1], ?_, rfl, rfl, rfl, rfl, rfl⟩
  exact hv

/-- A valid stage 2 delivers the bundle of the key whose values it holds (R123, R131). -/
theorem delivered_of_stage2Holds {s : State} {k : Word10} (hv : s.s2Valid = 1#1) (hs : Stage2Holds s k) :
    s.delivered = some (bundle k) := by
  obtain ⟨hp, hc1, hc2, hk1, hk2⟩ := hs
  simp [State.delivered, State.outputs, Ports.word, bundle, *]

/-- A word that asks for no reset is an edge without reset, with some other inputs (R53). -/
theorem edgeOf_of_not_reset {w : EdgeWord} (hw : decode w ≠ .reset) : ∃ v k, ∀ s, edgeOf w s = edge 0#1 v k s := by
  obtain h | ⟨k, h⟩ | h := decode_cases w
  · exact absurd h hw
  · exact ⟨1#1, k, fun s => by rw [edgeOf, h]; rfl⟩
  · exact ⟨0#1, 0#10, fun s => by rw [edgeOf, h]; rfl⟩

/-- The edge after the sampling edge of a DERIVE delivers it, unless it is a reset edge (R126, R127). -/
theorem derive_delivers (k : Word10) {s : State} {w : EdgeWord} (hs : Readable s) (hw : decode w ≠ .reset) :
    ∃ t u, exec (.derive k) s = .next t ∧ edgeOf w t = .next u ∧ u.delivered = some (bundle k) := by
  obtain ⟨s', hs'⟩ := (advanceStage2_ok_iff s).2 hs
  obtain ⟨t', ht', hv, hold⟩ :=
    advanceStage2_of_stage1Holds (State.loadStage1_s1Valid s' 1#1 k) (stage1Holds_loadStage1 s' k)
  obtain ⟨v, k', hedge⟩ := edgeOf_of_not_reset hw
  refine ⟨s'.loadStage1 1#1 k, t'.loadStage1 v k', edge_of_advance hs' _ _, ?_, delivered_of_stage2Holds ?_ ?_⟩
  · rw [hedge, edge_of_advance ht']
  · simpa using hv
  · simpa [Stage2Holds] using hold

/-- Settles O22: the bits are those of the taps' tables, and what is delivered is the bundle of the taps. -/
theorem deriveClosedForm : Obligations.DeriveClosedForm := by
  intro k s w hs hw
  refine ⟨_, _, _, _, _, deriveTaps_eq_perm k, permP10_bits k, rfl, rfl, rfl, rfl, ?_⟩
  obtain ⟨t, u, hderive, hedge, hdelivered⟩ := derive_delivers k hs hw
  rw [bundle, deriveTaps_eq_perm] at hdelivered
  exact ⟨t, u, hderive, hedge, hdelivered⟩

end Sys2Proof.Proofs

/-! Proofs of the statements about the pipeline (spec/42_pipeline.md R122 to R131). An edge without reset is one equation:
stage 2 takes what stage 1 held, then stage 1 takes the inputs. Each statement follows one edge, or a few in a row, by it. -/

namespace Sys2Proof.Proofs

open Sys2Proof.Machine Sys2Proof.Safety

section Edges

variable {s t : State} {w : EdgeWord} {r v : Bit} {k : Word10}

/-! ## The two stages at an edge without reset (R122) -/

/-- The state with stage 2 moved on: it takes `s1_valid`, and the data of stage 1 where that is 1 (R122). -/
def advanced (s : State) : State :=
  { s with
    s2Valid := s.s1Valid
    s2P := if s.s1Valid = 1#1 then s.s1P else s.s2P
    s2C1 := if s.s1Valid = 1#1 then s.s1C1 else s.s2C1
    s2C2 := if s.s1Valid = 1#1 then s.s1C1.map fun c => (stage2 c).c2 else s.s2C2
    s2K1 := if s.s1Valid = 1#1 then s.s1K1 else s.s2K1
    s2K2 := if s.s1Valid = 1#1 then s.s1C1.map fun c => (stage2 c).k2 else s.s2K2 }

theorem eq_advanced_of_advanceStage2 (h : s.advanceStage2 = .ok t) : t = advanced s := by
  obtain ⟨hv, rfl⟩ | ⟨hv, p, c1, k1, hp, hc1, hk1, rfl⟩ := advanceStage2_ok h
  · simp [advanced, hv]
  · simp [advanced, hv, hp, hc1, hk1]

theorem advanceStage2_of_readable (hs : Readable s) : s.advanceStage2 = .ok (advanced s) := by
  obtain ⟨t, ht⟩ := (advanceStage2_ok_iff s).2 hs
  rw [ht, eq_advanced_of_advanceStage2 ht]

theorem advanceStage2_of_not_readable (hs : ¬ Readable s) : s.advanceStage2 = .error .unspecRead := by
  cases h : s.advanceStage2 with
  | ok t => exact absurd ((advanceStage2_ok_iff s).1 ⟨t, h⟩) hs
  | error f => rw [advanceStage2_error h]

/-- A sampled key fills stage 1 (R122, R126). -/
theorem loadStage1_one (s : State) (k : Word10) :
    s.loadStage1 1#1 k =
      { s with s1Valid := 1#1, s1P := some (stage1 k).p, s1C1 := some (stage1 k).c1, s1K1 := some (stage1 k).k1 } := rfl

theorem readable_of_empty (hv : s.s1Valid = 0#1) : Readable s := fun h1 => by simp [hv] at h1

theorem readable_of_some {p c1 : Word10} {k1 : Subkey} (hp : s.s1P = some p) (hc1 : s.s1C1 = some c1)
    (hk1 : s.s1K1 = some k1) : Readable s := fun _ => by
  simp [Stage1Specified, hp, hc1, hk1]

theorem readable_of_stage1Holds (hs : Stage1Holds s k) : Readable s :=
  have ⟨hp, hc1, hk1⟩ := hs
  readable_of_some hp hc1 hk1

/-! ## One edge by its inputs (R122) -/

theorem edge_of_readable (hs : Readable s) (v : Bit) (k : Word10) :
    edge 0#1 v k s = .next ((advanced s).loadStage1 v k) :=
  edge_of_advance (advanceStage2_of_readable hs) v k

theorem edge_of_not_readable (hs : ¬ Readable s) (v : Bit) (k : Word10) : edge 0#1 v k s = .fault .unspecRead := by
  simp [edge, advanceStage2_of_not_readable hs]

theorem eq_of_edge_without_reset (h : edge 0#1 v k s = .next t) : t = (advanced s).loadStage1 v k := by
  obtain ⟨hr, -⟩ | ⟨-, u, hu, rfl⟩ := edge_next h
  · cases hr
  · rw [eq_advanced_of_advanceStage2 hu]

/-- An edge writes neither the stimulus nor the output of an operation run on its own. -/
theorem edge_frame (h : edge r v k s = .next t) : t.stim = s.stim ∧ t.opOut = s.opOut := by
  obtain ⟨-, rfl⟩ | ⟨-, u, hu, rfl⟩ := edge_next h
  · exact ⟨rfl, rfl⟩
  · obtain rfl := eq_advanced_of_advanceStage2 hu
    simp [advanced]

/-- The word of given fields is the edge with these inputs: the decoder drops only what the edge ignores (R51, R53). -/
theorem edgeOf_edgeWord (r v : Bit) (k : Word10) (s : State) : edgeOf (edgeWord r v k) s = edge r v k s := by
  rw [edgeOf, decode_edgeWord]
  rcases bit_cases r with rfl | rfl
  · rcases bit_cases v with rfl | rfl <;> rfl
  · rfl

/-! ## One edge by its word (R53) -/

theorem exec_reset (s : State) : exec .reset s = .next s.cleared := edge_reset 0#1 0#10 s

theorem edgeOf_of_reset (hw : decode w = .reset) (s : State) : edgeOf w s = .next s.cleared := by
  rw [edgeOf, hw, exec_reset]

theorem eq_of_edgeOf_reset (hw : decode w = .reset) (h : edgeOf w s = .next t) : t = s.cleared :=
  Host.Outcome.next.inj (h.symm.trans (edgeOf_of_reset hw s))

/-- An edge answers where stage 1 can be read. -/
theorem edgeOf_of_readable (hs : Readable s) (w : EdgeWord) : ∃ t, edgeOf w s = .next t := by
  by_cases hw : decode w = .reset
  · exact ⟨_, edgeOf_of_reset hw s⟩
  · obtain ⟨v, k, hedge⟩ := edgeOf_of_not_reset hw
    exact ⟨_, by rw [hedge, edge_of_readable hs]⟩

theorem exec_derive_of_readable (hs : Readable s) (k : Word10) :
    exec (.derive k) s = .next ((advanced s).loadStage1 1#1 k) :=
  edge_of_readable hs 1#1 k

theorem exec_idle_of_readable (hs : Readable s) : exec .idle s = .next { advanced s with s1Valid := 0#1 } :=
  edge_of_readable hs 0#1 0#10

/-- After the sampling edge of a DERIVE stage 1 holds its key (R126). -/
theorem stage1_of_derive (h : exec (.derive k) s = .next t) : t.s1Valid = 1#1 ∧ Stage1Holds t k := by
  obtain ⟨u, -, rfl⟩ := execDerive_next h
  exact ⟨State.loadStage1_s1Valid u 1#1 k, stage1Holds_loadStage1 u k⟩

/-- `s1_valid` says whether the word of the last edge was a DERIVE (R122). -/
theorem s1Valid_edgeOf (h : edgeOf w s = .next t) : t.s1Valid = BitVec.ofBool (isDerive w) := by
  obtain ⟨hw, rfl⟩ | ⟨k, hw, h⟩ | ⟨hw, h⟩ := edgeOf_next h <;> simp only [isDerive, hw]
  · rfl
  · exact (stage1_of_derive h).1
  · exact (execIdle_valid h).1

/-- After every edge stage 1 can be read: it is valid only where it was just loaded. -/
theorem readable_of_edgeOf (h : edgeOf w s = .next t) : Readable t := fun hv =>
  have ⟨_, _, hold⟩ := derive_of_s1Valid_edgeOf h hv
  readable_of_stage1Holds hold hv

/-- The request in stage 1 reaches stage 2 at an edge without reset (R122, R126). -/
theorem stage2_of_edgeOf (hv : s.s1Valid = 1#1) (hs : Stage1Holds s k) (hw : decode w ≠ .reset)
    (h : edgeOf w s = .next t) : t.s2Valid = 1#1 ∧ Stage2Holds t k := by
  obtain ⟨v, k', hedge⟩ := edgeOf_of_not_reset hw
  obtain rfl := eq_of_edge_without_reset (hedge s ▸ h)
  obtain ⟨hp, hc1, hk1⟩ := hs
  simp [advanced, Stage2Holds, deriveTaps, hv, hp, hc1, hk1]

/-- A bubble in stage 1 reaches stage 2 at an edge without reset: the data ports hold (R125). -/
theorem outputs_of_edgeOf_empty (hv : s.s1Valid = 0#1) (hw : decode w ≠ .reset) (h : edgeOf w s = .next t) :
    t.outputs = { s.outputs with validOut := 0#1 } := by
  obtain ⟨v, k, hedge⟩ := edgeOf_of_not_reset hw
  obtain rfl := eq_of_edge_without_reset (hedge s ▸ h)
  simp [advanced, State.outputs, hv]

theorem delivered_of_s2Valid_zero (hv : s.s2Valid = 0#1) : s.delivered = none := by
  simp [State.delivered, State.outputs, hv]

theorem outputs_of_stage2Holds (hv : s.s2Valid = 1#1) (hs : Stage2Holds s k) :
    s.outputs = { validOut := 1#1, k1Out := some (deriveTaps k).k1, k2Out := some (deriveTaps k).k2,
                  p10Out := some (deriveTaps k).p, c1Out := some (deriveTaps k).c1, c2Out := some (deriveTaps k).c2 } := by
  obtain ⟨hp, hc1, hc2, hk1, hk2⟩ := hs
  rw [State.outputs, hv, hp, hc1, hc2, hk1, hk2]

end Edges

/-! ## Each request's edge (R122 to R126) -/

/-- Settles O29: the three possible edges are a cleared block, both stages moved on, and the fault. -/
theorem clockedStep : Obligations.ClockedStep := by
  intro s rst v k
  rw [edgeOf_edgeWord]
  refine ⟨fun h => ?_, fun hr hs => ?_⟩
  · rcases bit_cases rst with rfl | rfl
    · have hs : Readable s := h.resolve_left (by decide)
      exact ⟨_, edge_of_readable hs v k, by simp [advanced]⟩
    · exact ⟨_, edge_reset v k s, by simp⟩
  · rw [hr, edge_of_not_readable hs]

/-- Settles O24: a reset edge leaves the cleared block, whose stage 1 can be read. -/
theorem resetEdgeEmptiesTheBlock : Obligations.ResetEdgeEmptiesTheBlock := by
  intro s
  refine ⟨exec_reset s, fun v k => by rw [edgeOf_edgeWord, edge_reset, exec_reset], fun t ht => ?_⟩
  obtain rfl := exec_reset_next ht
  refine ⟨exec_reset s.cleared, rfl, fun k => ?_⟩
  have hempty : Readable s.cleared := readable_of_empty rfl
  exact ⟨_, exec_derive_of_readable hempty k, stage1Holds_loadStage1 _ k, rfl, rfl⟩

/-- Settles O25: an IDLE moves stage 2 on and clears `s1_valid`. -/
theorem idleEdgeInsertsABubble : Obligations.IdleEdgeInsertsABubble := by
  intro s
  refine ⟨fun hv => ?_, fun p c1 k1 hv hp hc1 hk1 => ?_, fun k => edgeOf_edgeWord 0#1 0#1 k s, fun hs => ?_⟩
  · rw [exec_idle_of_readable (readable_of_empty hv)]
    simp [advanced, hv]
  · rw [exec_idle_of_readable (readable_of_some hp hc1 hk1)]
    simp [advanced, hv, hp, hc1, hk1]
  · have hempty : Readable { advanced s with s1Valid := 0#1 } := readable_of_empty rfl
    exact ⟨_, _, exec_idle_of_readable hs, exec_idle_of_readable hempty, rfl⟩

/-- Settles O26: a DERIVE moves stage 2 on and fills stage 1. -/
theorem deriveEdgeLoadsStage1 : Obligations.DeriveEdgeLoadsStage1 := by
  intro k s
  refine ⟨fun hv => ?_, fun p c1 k1 hv hp hc1 hk1 => ?_⟩
  · rw [exec_derive_of_readable (readable_of_empty hv) k, loadStage1_one]
    simp [advanced, hv]
  · rw [exec_derive_of_readable (readable_of_some hp hc1 hk1) k, loadStage1_one]
    simp [advanced, hv, hp, hc1, hk1]

/-- Settles O31: a WAIT faults at its first IDLE edge. -/
theorem unspecReadFaults : Obligations.UnspecReadFaults := by
  intro s hs
  have hidle : execIdle s = .fault .unspecRead := edge_of_not_readable hs 0#1 0#10
  refine ⟨hidle, edge_of_not_readable hs 1#1, fun n hn => ?_⟩
  obtain ⟨n, rfl⟩ := Nat.exists_eq_add_of_le' hn
  change execWait (n + 1) s = _
  rw [execWait, if_neg (Nat.succ_ne_zero n), idleEdges, hidle]

theorem idleEdges_frame {n : Nat} {s t : State} (h : idleEdges n s = .next t) : t.stim = s.stim ∧ t.opOut = s.opOut := by
  induction n generalizing s with
  | zero =>
    obtain rfl := Host.Outcome.next.inj h
    exact ⟨rfl, rfl⟩
  | succ n ih =>
    obtain ⟨u, hu, hrest⟩ := idleEdges_succ_next h
    obtain ⟨hstim, hout⟩ := edge_frame hu
    exact hstim ▸ hout ▸ ih hrest

/-- Settles O46: each of the four is made of edges. -/
theorem edgesTouchRegistersOnly : Obligations.EdgesTouchRegistersOnly := by
  intro i s t hi h
  cases i with
  | reset => exact edge_frame (r := 1#1) (v := 0#1) (k := 0#10) h
  | derive k => exact edge_frame (r := 0#1) (v := 1#1) (k := k) h
  | idle => exact edge_frame (r := 0#1) (v := 0#1) (k := 0#10) h
  | wait n => exact idleEdges_frame (execWait_next h)
  | perm | permP10 | permP8 | split5 | rotl5 | rotl5By1 | rotl5By2 | join5 => cases hi

/-- Settles O32. -/
theorem stepRunsTheDecodedWord : Obligations.StepRunsTheDecodedWord := by
  intro s w ws hstim
  rw [step, hstim]
  rfl

/-- Settles O37. -/
theorem outputsShowStage2 : Obligations.OutputsShowStage2 := by
  refine ⟨fun s => ⟨rfl, rfl, rfl, rfl, rfl, rfl⟩, fun s s' hv hdata => ?_⟩
  obtain ⟨hp, hc1, hc2, hk1, hk2⟩ := hdata
  rw [State.outputs, hv, hp, hc1, hc2, hk1, hk2, State.outputs]

/-! ## A request through two and three edges (R126 to R128) -/

/-- Settles O27: the key fills stage 1, and the next edge moves it to stage 2 or clears the block. -/
theorem deriveDeliversAfterTheNextEdge : Obligations.DeriveDeliversAfterTheNextEdge := by
  refine ⟨by decide, by decide, fun s k w hs => ?_⟩
  have ht := exec_derive_of_readable hs k
  obtain ⟨hv, hold⟩ := stage1_of_derive ht
  obtain ⟨u, hu⟩ := edgeOf_of_readable (readable_of_stage1Holds hold) w
  refine ⟨_, u, (edgeOf_edgeWord _ _ k s).trans ht, hv, hold, hu, fun hw => ?_, fun hw => ?_⟩
  · obtain ⟨hv2, hold2⟩ := stage2_of_edgeOf hv hold hw hu
    exact outputs_of_stage2Holds hv2 hold2
  · rw [eq_of_edgeOf_reset hw hu]
    rfl

/-- Settles O28: the third edge moves on what the second left in stage 1, a key or a bubble, or clears the block. -/
theorem resultStaysOneInterval : Obligations.ResultStaysOneInterval := by
  intro s k w w2 hs hw
  obtain ⟨t, u, ht, hu, hdelivered⟩ := derive_delivers k hs hw
  obtain ⟨x, hx⟩ := edgeOf_of_readable (readable_of_edgeOf hu) w2
  refine ⟨t, u, x, ht, hu, hx, hdelivered, fun hw2 => ?_, fun hw2 j hj => ?_, fun hw2 hidle => ?_⟩
  · rw [eq_of_edgeOf_reset hw2 hx]
    exact ⟨delivered_of_s2Valid_zero rfl, rfl, rfl, rfl, rfl, rfl⟩
  · rw [edgeOf, hj] at hu
    obtain ⟨hv, hold⟩ := stage1_of_derive hu
    obtain ⟨hv2, hold2⟩ := stage2_of_edgeOf hv hold hw2 hx
    exact delivered_of_stage2Holds hv2 hold2
  · rw [edgeOf, hidle] at hu
    exact outputs_of_edgeOf_empty (execIdle_valid hu).1 hw2 hx

section NonInterference

variable {s s' t t' : State} {w w' : EdgeWord} {k : Word10}

/-- What stage 2 takes depends on stage 1 alone (R128). -/
theorem sameStage2_of_sameStage1 (h : SameStage1 s s') (hw : decode w ≠ .reset) (hw' : decode w' ≠ .reset)
    (ht : edgeOf w s = .next t) (ht' : edgeOf w' s' = .next t') :
    t.s2Valid = t'.s2Valid ∧ (t.s2Valid = 1#1 → SameStage2Data t t') := by
  obtain ⟨v, k, hedge⟩ := edgeOf_of_not_reset hw
  obtain ⟨v', k', hedge'⟩ := edgeOf_of_not_reset hw'
  obtain rfl := eq_of_edge_without_reset (hedge s ▸ ht)
  obtain rfl := eq_of_edge_without_reset (hedge' s' ▸ ht')
  obtain ⟨hv, hp, hc1, hk1⟩ := h
  simp +contextual [advanced, SameStage2Data, hv, hp, hc1, hk1]

/-- What an edge leaves in stage 1 depends on the word and on stage 1 alone (R128). -/
theorem sameStage1_of_sameStage1 (h : SameStage1 s s') (ht : edgeOf w s = .next t) (ht' : edgeOf w s' = .next t') :
    SameStage1 t t' := by
  by_cases hw : decode w = .reset
  · rw [eq_of_edgeOf_reset hw ht, eq_of_edgeOf_reset hw ht']
    exact ⟨rfl, rfl, rfl, rfl⟩
  · obtain ⟨v, k, hedge⟩ := edgeOf_of_not_reset hw
    obtain rfl := eq_of_edge_without_reset (hedge s ▸ ht)
    obtain rfl := eq_of_edge_without_reset (hedge s' ▸ ht')
    obtain ⟨-, hp, hc1, hk1⟩ := h
    simp [advanced, SameStage1, hp, hc1, hk1]

/-- Two stages 1 that hold the same key are the same. -/
theorem sameStage1_of_stage1Holds (h : s.s1Valid = 1#1 ∧ Stage1Holds s k) (h' : s'.s1Valid = 1#1 ∧ Stage1Holds s' k) :
    SameStage1 s s' := by
  obtain ⟨hv, hp, hc1, hk1⟩ := h
  obtain ⟨hv', hp', hc1', hk1'⟩ := h'
  exact ⟨hv.trans hv'.symm, hp.trans hp'.symm, hc1.trans hc1'.symm, hk1.trans hk1'.symm⟩

end NonInterference

/-- Settles O34: the edge of one word is the case of two words, but for a reset edge, which clears both blocks. -/
theorem requestsDoNotInterfere : Obligations.RequestsDoNotInterfere := by
  refine ⟨fun s s' w t t' h ht ht' => ⟨sameStage1_of_sameStage1 h ht ht', ?_⟩,
    fun s s' w w' t t' h hw hw' ht ht' => sameStage2_of_sameStage1 h hw hw' ht ht',
    fun s s' k t t' ht ht' => sameStage1_of_stage1Holds (stage1_of_derive ht) (stage1_of_derive ht')⟩
  by_cases hw : decode w = .reset
  · rw [eq_of_edgeOf_reset hw ht, eq_of_edgeOf_reset hw ht']
    exact ⟨rfl, fun _ => ⟨rfl, rfl, rfl, rfl, rfl⟩⟩
  · exact sameStage2_of_sameStage1 h hw hw ht ht'

/-! ## Runs and their observation (R131, R165) -/

/-- A run from a state whose stage 1 can be read answers, and leaves such a state. -/
theorem runEdges_of_readable {s : State} (hs : Readable s) (ws : List EdgeWord) :
    ∃ t, runEdges ws s = .next t ∧ Readable t := by
  induction ws generalizing s with
  | nil => exact ⟨s, rfl, hs⟩
  | cons w ws ih =>
    obtain ⟨u, hu⟩ := edgeOf_of_readable hs w
    obtain ⟨t, ht, hread⟩ := ih (readable_of_edgeOf hu)
    exact ⟨t, runEdges_cons_next.2 ⟨u, hu, ht⟩, hread⟩

/-- Settles O49: the last edge alone decides `s1_valid`. -/
theorem runCompleteIffLastIsNoDerive : Obligations.RunCompleteIffLastIsNoDerive := by
  intro ws w
  obtain ⟨t, ht, hread⟩ := runEdges_of_readable (s := State.reset) (readable_of_empty rfl) ws
  obtain ⟨u, hu⟩ := edgeOf_of_readable hread w
  refine ⟨u, runEdges_append_next.2 ⟨t, ht, runEdges_cons_next.2 ⟨u, hu, rfl⟩⟩, ?_⟩
  rw [State.complete, s1Valid_edgeOf hu]
  cases isDerive w <;> decide

section Observation

variable {s t u : State} {w : EdgeWord}

theorem observed_of_s2Valid_zero (hv : s.s2Valid = 0#1) (n : Nat) : observed n s = [] := by
  rw [observed, delivered_of_s2Valid_zero hv]

theorem observeFrom_cons (h : edgeOf w s = .next t) (n : Nat) (ws : List EdgeWord) :
    observeFrom n s (w :: ws) = observed n t ++ observeFrom (n + 1) t ws := by
  rw [observeFrom, h]

/-- After two edges is observed what the first word delivers, given the second (R127). -/
theorem observed_eq_deliveredAfter {next : EdgeWord} (ht : edgeOf w s = .next t) (hu : edgeOf next t = .next u) (n : Nat) :
    observed (n + 1) u = deliveredAfter n w next := by
  by_cases hnext : decode next = .reset
  · rw [deliveredAfter, if_pos hnext, eq_of_edgeOf_reset hnext hu, observed_of_s2Valid_zero rfl]
  · rw [deliveredAfter, if_neg hnext]
    have bubble (hv : t.s1Valid = 0#1) : observed (n + 1) u = [] :=
      observed_of_s2Valid_zero (congrArg Ports.validOut (outputs_of_edgeOf_empty hv hnext hu)) _
    obtain ⟨hw, rfl⟩ | ⟨k, hw, hderive⟩ | ⟨hw, hidle⟩ := edgeOf_next ht <;> rw [hw]
    · exact bubble rfl
    · obtain ⟨hv, hold⟩ := stage1_of_derive hderive
      obtain ⟨hv2, hold2⟩ := stage2_of_edgeOf hv hold hnext hu
      rw [observed, delivered_of_stage2Holds hv2 hold2]
      rfl
    · exact bubble (execIdle_valid hidle).1

/-- The rest of a stimulus is observed as what it delivers with the word sampled just before. -/
theorem observeFrom_eq_deliveries (ht : edgeOf w s = .next t) (n : Nat) (ws : List EdgeWord) :
    observeFrom (n + 1) t ws = deliveries n (w :: ws) := by
  induction ws generalizing s t w n with
  | nil => rfl
  | cons next ws ih =>
    obtain ⟨u, hu⟩ := edgeOf_of_readable (readable_of_edgeOf ht) next
    rw [observeFrom_cons hu, observed_eq_deliveredAfter ht hu, ih hu, deliveries]

end Observation

/-- Settles O48: nothing is observed after the first edge, a reset edge. -/
theorem observationIsTheDeliveries : Obligations.ObservationIsTheDeliveries := by
  intro ws hws
  cases ws with
  | nil => cases hws
  | cons w ws =>
    have hreset : edgeOf w State.reset = .next State.reset := edgeOf_of_reset (of_decide_eq_true hws) State.reset
    rw [observation, if_pos hws, observeFrom_cons hreset, observed_of_s2Valid_zero rfl, observeFrom_eq_deliveries hreset]
    rfl

/-! ## An empty block (R124, R165) -/

/-- The invariant of R32 with no key allowed: both register sets are empty. -/
theorem pipelineFrom_false_iff (s : State) :
    PipelineFrom (fun _ => False) s ↔ (s.s1Valid = 0#1 ∧ Stage1Unspec s) ∧ s.s2Valid = 0#1 ∧ Stage2Unspec s := by
  constructor
  · rintro ⟨h1, h2⟩
    exact ⟨by simpa using h1, by simpa using h2⟩
  · rintro ⟨h1, h2⟩
    exact ⟨.inl h1, .inl h2⟩

/-- An empty block stays empty without a DERIVE, and nothing is observed. -/
theorem empty_run {s : State} {ws : List EdgeWord} (hs : PipelineFrom (fun _ => False) s)
    (hws : ∀ w ∈ ws, isDerive w = false) :
    ∃ u, runEdges ws s = .next u ∧ PipelineFrom (fun _ => False) u ∧ ∀ n, observeFrom n s ws = [] := by
  induction ws generalizing s with
  | nil => exact ⟨s, rfl, hs, fun _ => rfl⟩
  | cons w ws ih =>
    rw [List.forall_mem_cons] at hws
    obtain ⟨hw, hws⟩ := hws
    obtain ⟨⟨hv1, -⟩, -⟩ := (pipelineFrom_false_iff s).1 hs
    obtain ⟨t, ht⟩ := edgeOf_of_readable (readable_of_empty hv1) w
    have hkey (k : Word10) (hk : decode w = .derive k) : False := by simp [isDerive, hk] at hw
    have hempty : PipelineFrom (fun _ => False) t := hs.exec hkey ht
    obtain ⟨u, hu, hu', hobs⟩ := ih hempty hws
    obtain ⟨-, hv2, -⟩ := (pipelineFrom_false_iff t).1 hempty
    refine ⟨u, runEdges_cons_next.2 ⟨t, ht, hu⟩, hu', fun n => ?_⟩
    rw [observeFrom_cons ht, observed_of_s2Valid_zero hv2, hobs, List.append_nil]

/-- Settles O35: a reset edge leaves an empty block. -/
theorem resetDiscardsRequestsInFlight : Obligations.ResetDiscardsRequestsInFlight := by
  intro s t ws ht hws
  obtain rfl := exec_reset_next ht
  obtain ⟨u, hu, hempty, hobs⟩ := empty_run (PipelineFrom.cleared _ s) hws
  obtain ⟨⟨hv1, hu1⟩, hv2, hu2⟩ := (pipelineFrom_false_iff u).1 hempty
  exact ⟨u, hu, hu1, hu2, hv1, hv2, hobs⟩

end Sys2Proof.Proofs

/-! Proofs of the statements about stops (spec/60_exceptions.md R140, R152, R153): an operation with an operand out of range is
refused, and any other answers, unless it is an edge without reset at an unreadable stage 1. -/

namespace Sys2Proof.Proofs

open Sys2Proof.Machine Sys2Proof.Safety

/-- Under the pipeline invariant stage 1 can be read (R32). -/
theorem readable_of_pipeInv {s : State} (hs : PipeInv s) : Readable s := fun hv =>
  have ⟨_, hold⟩ := hs.1 hv
  readable_of_stage1Holds hold hv

theorem exec_wait_of_readable {n : Nat} {s : State} (hn : 1 ≤ n) (hs : Readable s) : ∃ t, exec (.wait n) s = .next t :=
  have ⟨_, u, _, hu, _⟩ := waitIsThatManyIdleEdges n s hn hs
  ⟨u, hu⟩

/-- A well-formed operation answers, unless it runs an edge without reset at an unreadable stage 1 (R122, R153). -/
theorem exec_cases_of_wf {i : Instr} (hwf : i.wf = true) (s : State) :
    (∃ t, exec i s = .next t) ∨
      (exec i s = .fault .unspecRead ∧ ¬ Readable s ∧ isInternal i = false ∧ i ≠ .reset) := by
  cases i with
  | reset => exact .inl ⟨_, exec_reset s⟩
  | derive k =>
    by_cases hs : Readable s
    · exact .inl ⟨_, exec_derive_of_readable hs k⟩
    · exact .inr ⟨edge_of_not_readable hs 1#1 k, hs, rfl, nofun⟩
  | idle =>
    by_cases hs : Readable s
    · exact .inl ⟨_, exec_idle_of_readable hs⟩
    · exact .inr ⟨edge_of_not_readable hs 0#1 0#10, hs, rfl, nofun⟩
  | wait n =>
    have hn : 1 ≤ n := of_decide_eq_true hwf
    by_cases hs : Readable s
    · exact .inl (exec_wait_of_readable hn hs)
    · obtain ⟨-, -, hwait⟩ := unspecReadFaults s hs
      exact .inr ⟨hwait n hn, hs, rfl, nofun⟩
  | perm wT wS t v => exact .inl ⟨_, exec_perm_of_wf hwf v s⟩
  | rotl5 x n =>
    obtain ⟨h0, h5⟩ : 0 ≤ n ∧ n ≤ 5 := by simpa [Instr.wf] using hwf
    exact .inl ⟨_, exec_rotl5_of_mem h0 h5 x s⟩
  | permP10 | permP8 | split5 | rotl5By1 | rotl5By2 | join5 => exact .inl ⟨_, rfl⟩

/-- An ill-formed operation is refused in every state: PERM for its table (R56), ROTL5 for its amount (R91), WAIT for its
count (R61). -/
theorem exec_of_not_wf {i : Instr} (hwf : i.wf = false) (s : State) :
    ∃ r, exec i s = .refused r ∧ (r = .invalidPermutationTable ∨ r = .rotationOutOfRange ∨ r = .stimulusSyntax) := by
  cases i with
  | wait n =>
    obtain rfl : n = 0 := by simpa [Instr.wf] using hwf
    exact ⟨_, rfl, .inr (.inr rfl)⟩
  | perm wT wS t v =>
    have helab : elabTable t wT wS = .error .invalidPermutationTable := elabTable_error_iff.2 ⟨hwf, rfl⟩
    exact ⟨_, exec_perm_of_error helab v s, .inl rfl⟩
  | rotl5 x n =>
    have hn : n < 0 ∨ 5 < n := by
      simp only [Instr.wf, Bool.and_eq_false_iff, decide_eq_false_iff_not] at hwf
      omega
    exact ⟨_, exec_rotl5_of_not_mem hn x s, .inr (.inl rfl)⟩
  | reset | derive | idle | permP10 | permP8 | split5 | rotl5By1 | rotl5By2 | join5 => cases hwf

/-- Settles O33. -/
theorem noEdgeNoChange : Obligations.NoEdgeNoChange := by
  intro s hstim
  rw [step, hstim]

/-- Settles O42: under the invariant stage 1 can be read, so the edge of any next word answers. -/
theorem noStepStopsUnderPipelineInvariant : Obligations.NoStepStopsUnderPipelineInvariant := by
  intro s hs
  cases hstim : s.stim with
  | nil => exact ⟨s, noEdgeNoChange s hstim⟩
  | cons w ws =>
    have hread : Readable (s.setStim ws) := readable_of_pipeInv hs
    obtain ⟨t, ht⟩ := edgeOf_of_readable hread w
    exact ⟨t, (stepRunsTheDecodedWord s w ws hstim).trans ht⟩

/-- Settles O43: the other answer of a well-formed operation needs an unreadable stage 1. -/
theorem wellFormedOperationsComplete : Obligations.WellFormedOperationsComplete := by
  intro i s hwf hs
  obtain hnext | ⟨-, hunreadable, -⟩ := exec_cases_of_wf hwf s
  · exact hnext
  · exact absurd hs hunreadable

/-- Settles O44: a well-formed operation is never refused, and any other always is. -/
theorem stopsAreTheListedOnes : Obligations.StopsAreTheListedOnes := by
  intro i s
  cases hwf : i.wf with
  | true =>
    obtain ⟨t, ht⟩ | ⟨hfault, hwhere⟩ := exec_cases_of_wf hwf s
    · simp [ht]
    · simp [hfault, hwhere]
  | false =>
    obtain ⟨r, hr, hlisted⟩ := exec_of_not_wf hwf s
    simpa [hr] using hlisted

end Sys2Proof.Proofs

/-! Proofs of the statements about a stimulus before its first RESET (spec/70_reset_and_hazards.md R162). -/

namespace Sys2Proof.Proofs

open Sys2Proof.Machine

/-- The row RESET is bit 11 alone, whatever the bits below it (R53). -/
theorem decode_eq_reset_iff (w : EdgeWord) : decode w = .reset ↔ w.getLsbD 11 = true := by
  rw [← rstField_eq_one_iff]
  obtain ⟨hr, hd⟩ | ⟨hr, -, hd⟩ | ⟨hr, -, hd⟩ := decode_cases_fields w <;> simp [hr, hd]

theorem startsWithReset_cons (w : EdgeWord) (ws : List EdgeWord) : startsWithReset (w :: ws) = w.getLsbD 11 := by
  rw [startsWithReset, Bool.eq_iff_iff, decide_eq_true_iff, decode_eq_reset_iff]

theorem startsWithReset_iff (ws : List EdgeWord) :
    startsWithReset ws = true ↔ ∃ w vs, ws = w :: vs ∧ w.getLsbD 11 = true := by
  cases ws with
  | nil => simp [startsWithReset]
  | cons w ws => simp [startsWithReset_cons]

theorem launch_of_startsWithReset {ws : List EdgeWord} (hws : startsWithReset ws = true) :
    launch ws = .next (State.reset.setStim ws) := by
  rw [launch, if_pos hws]

theorem launch_of_not_startsWithReset {ws : List EdgeWord} (hws : startsWithReset ws = false) :
    launch ws = .refused .noResetYet := by
  rw [launch, if_neg (Bool.eq_false_iff.1 hws)]

theorem observation_of_not_startsWithReset {ws : List EdgeWord} (hws : startsWithReset ws = false) :
    observation ws = .error .noResetYet := by
  rw [observation, if_neg (Bool.eq_false_iff.1 hws)]

/-- Settles O50: loading and observing both test the first word, which is a RESET by its bit 11; the load places the words only. -/
theorem stimulusMustStartWithReset : Obligations.StimulusMustStartWithReset :=
  ⟨fun _ hws => ⟨launch_of_not_startsWithReset hws, observation_of_not_startsWithReset hws⟩,
    startsWithReset_iff, fun _ hws => launch_of_startsWithReset hws⟩

end Sys2Proof.Proofs
